-- ==== Sys2Proof/Word.lean ====
section
/-! DEFINITION. The words of the core: bytes, the u32 and u64 registers, the 11-bit probability (00_scope.md R8, R10, R11). -/

namespace Sys2Proof

/-- A byte, 0..255 (00_scope.md R10). -/
abbrev Byte := BitVec 8

/-- An unsigned 32-bit integer: `range`, `code`, distances, `dictionarySize` (00_scope.md R10). -/
abbrev U32 := BitVec 32

/-- An unsigned 64-bit integer: `remaining` (10_state.md R37). -/
abbrev U64 := BitVec 64

/-- The value of one probability slot, 11 bits (10_state.md R44). -/
abbrev Prob := BitVec 11

/-- The LZMA state, one of 12 values (10_state.md R35). -/
abbrev LzmaState := Fin 12

end Sys2Proof
end

