-- ==== Sys2Proof/Config.lean ====
section
/-! DEFINITION. The fixed constants of the hardware (00_scope.md R8) and its one open parameter (00_scope.md R9). -/

namespace Sys2Proof

/-- `P_INIT_CODE_CHECK`: whether INIT rejects an initial `code` that is not below `range`
(00_scope.md R9, 92_eei_decisions.md D4). It is an argument of the session: State holds it. -/
inductive InitCodeCheck where
  | none
  | reject
  deriving DecidableEq, Repr

namespace Config

/-- `PROB_INIT`: every slot's value after CONFIGURE (00_scope.md R8). -/
abbrev probInit : Prob := 1024

/-- `MOVE_BITS`: the adaptation shift (00_scope.md R8). -/
abbrev moveBits : Nat := 5

/-- `TOP`: the normalization threshold, 2^24 (00_scope.md R8). -/
abbrev top : U32 := 0x01000000

/-- The value INIT gives `range` (10_state.md R62). -/
abbrev rangeInit : U32 := 0xFFFFFFFF

/-- `EOS_DIST`: the end-marker distance (00_scope.md R8). -/
abbrev eosDist : U32 := 0xFFFFFFFF

/-- `END_POS_MODEL_INDEX`: the first slot on the direct-bit path (00_scope.md R8). -/
abbrev endPosModelIndex : Nat := 14

/-- The first value of the properties byte that is illegal (30_encoding.md R114). -/
abbrev propsLimit : Nat := 225

/-- No more than this many decisions in a row leave the input untouched (45_decode_loop.md R296). -/
abbrev decisionsPerByte : Nat := 364

end Config

end Sys2Proof
end

