-- ==== Sys2Proof/Syntax.lean ====
section
/-! DEFINITION. The instructions: the symbols of the stream and the host commands (00_scope.md R2, 30_encoding.md R117,
R119), the failure kinds (60_exceptions.md R340), the probability slots (10_state.md R44 to R56), and the shape of a
symbol's decoding as a tree of decisions (30_encoding.md, opening). -/

namespace Sys2Proof

/-- The failure kinds (60_exceptions.md R340). -/
inductive FailKind where
  | invalidProperties
  | rangeDecoderInitFailure
  | uncompressedSizeExceeded
  | emptyWindow
  | rangeDecoderResidualError
  | repeatLengthExceedsRemaining
  | insufficientHistoryForRepeat
  | uninitializedDecoder
  | prematureEndMarker
  | distanceExceedsDictionary
  deriving DecidableEq, Repr

/-- `sizeMode`: an exact uncompressed size or "until end marker" (00_scope.md R7). -/
inductive SizeMode where
  | bounded (n : U64)
  | unbounded
  deriving DecidableEq, Repr

/-- The instructions, one constructor per row of the opcode table: eight symbol kinds in the syntax of 30_encoding.md
R117, then the five host commands of R119. `len` is the final length, `dist` the 0-based distance. -/
inductive Instr where
  /-- LIT (R282). -/
  | lit (b : Byte)
  /-- MATCH (R283). -/
  | newMatch (len : Nat) (dist : U32)
  /-- EOS: a MATCH of distance 0xFFFFFFFF, spelled by any length (R118, R284). -/
  | eos (len : Nat)
  /-- SHORTREP (R285). -/
  | shortRep
  /-- LONGREP0 (R286). -/
  | longRep0 (len : Nat)
  /-- LONGREP1 (R287). -/
  | longRep1 (len : Nat)
  /-- LONGREP2 (R288). -/
  | longRep2 (len : Nat)
  /-- LONGREP3 (R289). -/
  | longRep3 (len : Nat)
  /-- CONFIGURE, command code 1 (R320). -/
  | configure (props : Byte) (dictionarySize : U32) (sizeMode : SizeMode)
  /-- INIT, command code 2 (R322). -/
  | init
  /-- STEP, command code 3 (R280, R323). -/
  | step
  /-- RUN, command code 4 (R295, R324). -/
  | run
  /-- FINALIZE, command code 5 (R325). -/
  | finalize
  deriving DecidableEq, Repr

/-- The symbols of the stream, as the decode loop reads them (00_scope.md R2, 30_encoding.md R117). -/
inductive Symbol where
  | lit (b : Byte)
  | newMatch (len : Nat) (dist : U32)
  | eos (len : Nat)
  | shortRep
  | longRep0 (len : Nat)
  | longRep1 (len : Nat)
  | longRep2 (len : Nat)
  | longRep3 (len : Nat)
  deriving DecidableEq, Repr

/-- A symbol is an instruction (00_scope.md R2). -/
def Symbol.toInstr : Symbol → Instr
  | .lit b => .lit b
  | .newMatch len dist => .newMatch len dist
  | .eos len => .eos len
  | .shortRep => .shortRep
  | .longRep0 len => .longRep0 len
  | .longRep1 len => .longRep1 len
  | .longRep2 len => .longRep2 len
  | .longRep3 len => .longRep3 len

/-- A command as the host issues it: its code (30_encoding.md R119) and the operands only CONFIGURE reads
(46_host_commands.md R320). The spec gives no wire format for them (R331), so they stand beside the code.
DESIGN CHOICE, log entry 4. -/
structure Call where
  code : Byte
  props : Byte := 0
  dictionarySize : U32 := 0
  sizeMode : SizeMode := .unbounded
  deriving DecidableEq, Repr

/-- The two length decoders (10_state.md R55, R56). -/
inductive LenSet where
  | lenDec
  | repLenDec
  deriving DecidableEq, Repr

/-- A probability slot: its array and its index there (10_state.md R45 to R56). -/
inductive Slot where
  | isMatch (s : LzmaState) (ps : Fin 16)
  | isRep (s : LzmaState)
  | isRepG0 (s : LzmaState)
  | isRepG1 (s : LzmaState)
  | isRepG2 (s : LzmaState)
  | isRep0Long (s : LzmaState) (ps : Fin 16)
  | posSlot (ls : Fin 4) (m : Fin 64)
  | specPos (i : Fin 115)
  | align (m : Fin 16)
  | choice (l : LenSet)
  | choice2 (l : LenSet)
  | low (l : LenSet) (ps : Fin 16) (m : Fin 8)
  | mid (l : LenSet) (ps : Fin 16) (m : Fin 8)
  | high (l : LenSet) (m : Fin 256)
  | literal (k : Fin 4096) (j : Fin 768)
  deriving DecidableEq, Repr

/-- How one decision is decoded: with a slot (40_range_decoder.md R142) or as a direct bit (R145). -/
inductive Decision where
  | adaptive (slot : Slot)
  | direct
  deriving DecidableEq, Repr

/-- The decoding of a field or a symbol: a tree of decisions. `ask` takes one decision and goes on with its outcome,
`done` has the value, `fail` raises a failure at this point of the decoding (30_encoding.md R101 to R108). -/
inductive Fetch (α : Type) where
  | done (a : α)
  | fail (k : FailKind)
  | ask (d : Decision) (next : Bool → Fetch α)

/-- How a literal is decoded (42_state_machine.md R202): plain, matched against a byte, or with no byte to match. -/
inductive LiteralMode where
  | plain
  | matched (mb : Byte)
  | unreadable
  deriving DecidableEq, Repr

/-- What selects the contexts and the failures of a symbol's decoding, all taken at the symbol's start
(42_state_machine.md R198, 45_decode_loop.md R281). -/
structure Context where
  /-- `state`. -/
  s : LzmaState
  /-- `posState` (42_state_machine.md R196). -/
  ps : Fin 16
  /-- `litState` (42_state_machine.md R198). -/
  litState : Fin 4096
  /-- The literal mode (42_state_machine.md R202). -/
  literalMode : LiteralMode
  /-- What the rep path raises after is-rep (45_decode_loop.md R290). -/
  repPath : Option FailKind
  /-- CheckDist of each rep (45_decode_loop.md R289). -/
  rep0 : Option FailKind
  rep1 : Option FailKind
  rep2 : Option FailKind
  rep3 : Option FailKind
  deriving DecidableEq, Repr

/-- An encoded instruction: a symbol's decisions in decoding order (30_encoding.md, opening), or a command as the host
issues it (30_encoding.md R119). -/
inductive Encoded where
  | decisions (bits : List Bool)
  | call (c : Call)
  deriving DecidableEq, Repr

/-- Why the decoder rejects an encoding. -/
inductive DecodeError where
  /-- The decisions end inside a symbol (30_encoding.md R103: no complete prefix is illegal). -/
  | outOfDecisions
  /-- The context fails the symbol at this point (30_encoding.md R113). -/
  | failed (k : FailKind)
  /-- Command codes 0 and 6..255 (30_encoding.md R119). -/
  | unassignedCode (code : Byte)
  deriving DecidableEq, Repr

end Sys2Proof
end

