-- ==== Sys2Proof/WellFormed.lean ====
section
/-! DEFINITION. Which instructions an encoding can spell: lengths 2..273 (30_encoding.md R107) and, of a MATCH, a distance
that is not the end marker (R112). -/

namespace Sys2Proof

/-- A length field's values are 2..273 (30_encoding.md R107). -/
def lenOk (len : Nat) : Bool := decide (2 ≤ len ∧ len ≤ 273)

/-- An instruction that some encoding spells. CONFIGURE takes every properties byte: 225..255 is a failure of the
command, not of its form (46_host_commands.md R320). -/
def Instr.wf : Instr → Bool
  | .lit _ => true
  | .newMatch len dist => lenOk len && decide (dist ≠ Config.eosDist)
  | .eos len => lenOk len
  | .shortRep => true
  | .longRep0 len => lenOk len
  | .longRep1 len => lenOk len
  | .longRep2 len => lenOk len
  | .longRep3 len => lenOk len
  | .configure _ _ _ => true
  | .init => true
  | .step => true
  | .run => true
  | .finalize => true

/-- A symbol that some sequence of decisions spells. -/
def Symbol.wf (y : Symbol) : Bool := y.toInstr.wf

end Sys2Proof
end

