-- ==== Sys2Proof/Decode.lean ====
section
/-! DEFINITION. Decoding and encoding (30_encoding.md). A symbol's grammar is ONE tree of decisions, `symbolFetch`, with the
slot of every decision; it is read here from a list of decisions, and by the machine from the range decoder. The encoder
stands after the decoder. -/

namespace Sys2Proof

/-! ## Trees of decisions -/

/-- `p`, then `f` of its value. -/
def Fetch.bind {α β : Type} : Fetch α → (α → Fetch β) → Fetch β
  | .done a, f => f a
  | .fail k, _ => .fail k
  | .ask d next, f => .ask d fun b => (next b).bind f

/-- `p`, its value mapped. -/
def Fetch.map {α β : Type} (f : α → β) (p : Fetch α) : Fetch β := p.bind fun a => .done (f a)

/-- One adaptive decision (40_range_decoder.md R142). -/
def decide1 {α : Type} (slot : Slot) (zero one : Fetch α) : Fetch α :=
  .ask (.adaptive slot) fun b => if b then one else zero

/-- `p`, unless a check has failed (60_exceptions.md R350). -/
def Fetch.guarded {α : Type} (check : Option FailKind) (p : Fetch α) : Fetch α :=
  match check with
  | none => p
  | some k => .fail k

/-- Read a tree from a list of decisions, answering the decisions left. -/
def Fetch.read {α : Type} : Fetch α → List Bool → Except DecodeError (α × List Bool)
  | .done a, bits => .ok (a, bits)
  | .fail k, _ => .error (.failed k)
  | .ask _ _, [] => .error .outOfDecisions
  | .ask _ next, b :: bits => (next b).read bits

/-! ## Bit trees and direct bits -/

/-- The walk of a forward bit-tree from index `m`, `n` decisions to go (41_bit_tree.md R170). -/
def bitTreeFrom (P : Nat → Slot) : Nat → Nat → Fetch Nat
  | 0, m => .done m
  | n + 1, m => .ask (.adaptive (P m)) fun bit => bitTreeFrom P n ((m <<< 1) + bit.toNat)

/-- BitTree(P, n, off), most significant bit first (41_bit_tree.md R170). -/
def bitTree (P : Nat → Slot) (n : Nat) (off : Nat := 0) : Fetch Nat :=
  (bitTreeFrom (fun m => P (off + m)) n 1).map fun m => m - (1 <<< n)

/-- The walk of a reverse bit-tree: `i` the step, `m` the index, `sym` the value so far (41_bit_tree.md R171). -/
def bitTreeRevFrom (P : Nat → Slot) : Nat → Nat → Nat → Nat → Fetch Nat
  | 0, _, _, sym => .done sym
  | n + 1, i, m, sym => .ask (.adaptive (P m)) fun bit =>
      bitTreeRevFrom P n (i + 1) ((m <<< 1) + bit.toNat) (sym ||| (bit.toNat <<< i))

/-- BitTreeRev(P, n, off), least significant bit first (41_bit_tree.md R171). -/
def bitTreeRev (P : Nat → Slot) (n : Nat) (off : Nat := 0) : Fetch Nat :=
  bitTreeRevFrom (fun m => P (off + m)) n 0 1 0

/-- DecodeDirectBits from the value `res` so far (40_range_decoder.md R145). -/
def directBitsFrom : Nat → Nat → Fetch Nat
  | 0, res => .done res
  | n + 1, res => .ask .direct fun bit => directBitsFrom n ((res <<< 1) ||| bit.toNat)

/-- DecodeDirectBits(n), the first bit the most significant (40_range_decoder.md R145). -/
def directBits (n : Nat) : Fetch Nat := directBitsFrom n 0

/-! ## Operand fields -/

/-- The slot `literal[k][j]` (10_state.md R51). -/
def literalSlot (k : Fin 4096) (j : Nat) : Slot := .literal k (Fin.ofNat 768 j)

/-- LiteralPlain from `sym`, `n` decisions to go (42_state_machine.md R200). -/
def literalPlainFrom (P : Nat → Slot) : Nat → Nat → Fetch Nat
  | 0, sym => .done sym
  | n + 1, sym => .ask (.adaptive (P sym)) fun bit => literalPlainFrom P n ((sym <<< 1) ||| bit.toNat)

/-- The matched phase of LiteralMatched from `sym` and what is left of the match byte; the plain tail from the first
difference on (42_state_machine.md R201). -/
def literalMatchedFrom (P : Nat → Slot) : Nat → Nat → Nat → Fetch Nat
  | 0, sym, _ => .done sym
  | n + 1, sym, mb =>
    .ask (.adaptive (P (0x100 + (((mb >>> 7) &&& 1) <<< 8) + sym))) fun bit =>
      if bit.toNat = (mb >>> 7) &&& 1 then
        literalMatchedFrom P n ((sym <<< 1) ||| bit.toNat) ((mb <<< 1) &&& 0xFF)
      else literalPlainFrom P n ((sym <<< 1) ||| bit.toNat)

/-- LiteralDecode (42_state_machine.md R202). With no byte to match, the failure that 44_output_window.md R262 gives
such a call. -/
def literalField (k : Fin 4096) (mode : LiteralMode) : Fetch Byte :=
  match mode with
  | .plain => (literalPlainFrom (literalSlot k) 8 1).map fun sym => BitVec.ofNat 8 (sym - 0x100)
  | .matched mb =>
    (literalMatchedFrom (literalSlot k) 8 1 mb.toNat).map fun sym => BitVec.ofNat 8 (sym - 0x100)
  | .unreadable => .fail .insufficientHistoryForRepeat

/-- LenDecode(L, ps) (43_length_distance.md R230). -/
def lenField (l : LenSet) (ps : Fin 16) : Fetch Nat :=
  decide1 (.choice l)
    ((bitTree (fun m => .low l ps (Fin.ofNat 8 m)) 3).map fun v => 2 + v)
    (decide1 (.choice2 l)
      ((bitTree (fun m => .mid l ps (Fin.ofNat 8 m)) 3).map fun v => 10 + v)
      ((bitTree (fun m => .high l (Fin.ofNat 256 m)) 8).map fun v => 18 + v))

/-- `lenState` (43_length_distance.md R240). -/
def lenState (len : Nat) : Fin 4 := Fin.ofNat 4 (min (len - 2) 3)

/-- `nd` of a distance slot (30_encoding.md R109). -/
def slotNd (slot : Nat) : Nat := (slot >>> 1) - 1

/-- `base` of a distance slot (30_encoding.md R109). -/
def slotBase (slot : Nat) : Nat := (2 ||| (slot &&& 1)) <<< slotNd slot

/-- What follows a distance slot (43_length_distance.md R241 to R244). -/
def distTail (slot : Nat) : Fetch Nat :=
  if slot < 4 then .done slot
  else if slot < Config.endPosModelIndex then
    (bitTreeRev (fun m => .specPos (Fin.ofNat 115 m)) (slotNd slot) (slotBase slot - slot)).map
      fun rev => slotBase slot + rev
  else
    (directBits (slotNd slot - 4)).bind fun dir =>
      (bitTreeRev (fun m => .align (Fin.ofNat 16 m)) 4).map fun low => slotBase slot + (dir <<< 4) + low

/-- DistDecode(length) (43_length_distance.md R241). -/
def distField (len : Nat) : Fetch U32 :=
  ((bitTree (fun m => .posSlot (lenState len) (Fin.ofNat 64 m)) 6).bind distTail).map fun d => BitVec.ofNat 32 d

/-! ## Symbols -/

/-- MATCH or EOS after its prefix: length, then distance; the distance 0xFFFFFFFF is EOS (45_decode_loop.md R283,
R284). -/
def matchField (ps : Fin 16) : Fetch Symbol :=
  (lenField .lenDec ps).bind fun len =>
    (distField len).map fun dist => if dist = Config.eosDist then .eos len else .newMatch len dist

/-- LONGREP after its prefix: CheckDist of its rep, then the length (45_decode_loop.md R289). -/
def longRepField (ps : Fin 16) (check : Option FailKind) (mk : Nat → Symbol) : Fetch Symbol :=
  Fetch.guarded check ((lenField .repLenDec ps).map mk)

/-- The rep path after is-rep: EmptyWindow first, then is-rep-g0 and on (45_decode_loop.md R281, R290). -/
def repField (c : Context) : Fetch Symbol :=
  Fetch.guarded c.repPath
    (decide1 (.isRepG0 c.s)
      (decide1 (.isRep0Long c.s c.ps) (.done .shortRep) (longRepField c.ps c.rep0 .longRep0))
      (decide1 (.isRepG1 c.s) (longRepField c.ps c.rep1 .longRep1)
        (decide1 (.isRepG2 c.s) (longRepField c.ps c.rep2 .longRep2) (longRepField c.ps c.rep3 .longRep3))))

/-- The kind prefix and the operand fields of one symbol (30_encoding.md R102, R105; 45_decode_loop.md R281). -/
def symbolFetch (c : Context) : Fetch Symbol :=
  decide1 (.isMatch c.s c.ps)
    ((literalField c.litState c.literalMode).map .lit)
    (decide1 (.isRep c.s) (matchField c.ps) (repField c))

/-- The context of a fresh stream with one byte of output: every check passes. The grammar does not depend on the
context (30_encoding.md R116), so this one serves to read bare decisions. -/
def Context.plain : Context :=
  { s := 0, ps := 0, litState := 0, literalMode := .plain, repPath := none,
    rep0 := none, rep1 := none, rep2 := none, rep3 := none }

/-! ## The decoder -/

/-- Decode one symbol from its decisions, answering the decisions left (30_encoding.md R101). -/
def decodeSymbol (bits : List Bool) : Except DecodeError (Symbol × List Bool) :=
  (symbolFetch Context.plain).read bits

/-- Decode a host command; codes 0 and 6..255 are unassigned (30_encoding.md R119). -/
def decodeCall (c : Call) : Except DecodeError Instr :=
  match c.code.toNat with
  | 1 => .ok (.configure c.props c.dictionarySize c.sizeMode)
  | 2 => .ok .init
  | 3 => .ok .step
  | 4 => .ok .run
  | 5 => .ok .finalize
  | _ => .error (.unassignedCode c.code)

/-- Decode an encoded instruction. -/
def decode : Encoded → Except DecodeError Instr
  | .decisions bits => (decodeSymbol bits).map fun r => r.1.toInstr
  | .call c => decodeCall c

/-- The bits of the 5-bit kind-prefix window, bit 4 first (30_encoding.md R104). -/
def windowBits (w : Nat) : List Bool :=
  [w.testBit 4, w.testBit 3, w.testBit 2, w.testBit 1, w.testBit 0]

/-- What stands at a table word: a command code 1..5, else a 5-bit kind-prefix window followed by decisions of zero
(enough for the longest symbol, 48 decisions by 30_encoding.md R115), else an unassigned command code. The table numbers
commands and windows from the same bit 0. DESIGN CHOICE, log entry 11. -/
def tableEncoded (w : Nat) : Encoded :=
  if 1 ≤ w ∧ w ≤ 5 then .call { code := BitVec.ofNat 8 w }
  else if w < 32 then .decisions (windowBits w ++ List.replicate 48 false)
  else .call { code := BitVec.ofNat 8 w }

/-- The instruction of a table word of `nbits` bits (spec/opcode_table.json); a word that does not fit a byte is none. -/
def decodeTableWord (nbits w : Nat) : Option Instr :=
  if w < 2 ^ nbits ∧ w < 256 then (decode (tableEncoded w)).toOption else none

/-! ## The encoder -/

/-- The `n` low bits of `v`, most significant first (20_memory.md R79). -/
def bitsMsb : Nat → Nat → List Bool
  | 0, _ => []
  | n + 1, v => v.testBit n :: bitsMsb n v

/-- The `n` low bits of `v`, least significant first (20_memory.md R79). -/
def bitsLsb : Nat → Nat → List Bool
  | 0, _ => []
  | n + 1, v => v.testBit 0 :: bitsLsb n (v >>> 1)

/-- The decisions of a length field (30_encoding.md R107). -/
def encodeLen (len : Nat) : List Bool :=
  if len < 10 then false :: bitsMsb 3 (len - 2)
  else if len < 18 then true :: false :: bitsMsb 3 (len - 10)
  else true :: true :: bitsMsb 8 (len - 18)

/-- The distance slot whose range holds `d` (30_encoding.md R110). -/
def distSlot (d : Nat) : Nat :=
  if d < 4 then d else 2 * d.log2 + (d >>> (d.log2 - 1)) % 2

/-- The decisions after the slot (30_encoding.md R108, R109). -/
def encodeDistTail (slot rest : Nat) : List Bool :=
  if slot < 4 then []
  else if slot < Config.endPosModelIndex then bitsLsb (slotNd slot) rest
  else bitsMsb (slotNd slot - 4) (rest >>> 4) ++ bitsLsb 4 (rest % 16)

/-- The decisions of a distance field (30_encoding.md R108 to R110). -/
def encodeDist (d : U32) : List Bool :=
  bitsMsb 6 (distSlot d.toNat) ++
    encodeDistTail (distSlot d.toNat) (d.toNat - slotBase (distSlot d.toNat))

/-- The decisions of a symbol: prefix, then operand fields (30_encoding.md R102, R105). -/
def encodeSymbol : Symbol → List Bool
  | .lit b => false :: bitsMsb 8 b.toNat
  | .newMatch len dist => [true, false] ++ encodeLen len ++ encodeDist dist
  | .eos len => [true, false] ++ encodeLen len ++ encodeDist Config.eosDist
  | .shortRep => [true, true, false, false]
  | .longRep0 len => [true, true, false, true] ++ encodeLen len
  | .longRep1 len => [true, true, true, false] ++ encodeLen len
  | .longRep2 len => [true, true, true, true, false] ++ encodeLen len
  | .longRep3 len => [true, true, true, true, true] ++ encodeLen len

/-- The encoding of an instruction: a symbol's decisions, a command's code and operands (30_encoding.md R119). -/
def encode : Instr → Encoded
  | .lit b => .decisions (encodeSymbol (.lit b))
  | .newMatch len dist => .decisions (encodeSymbol (.newMatch len dist))
  | .eos len => .decisions (encodeSymbol (.eos len))
  | .shortRep => .decisions (encodeSymbol .shortRep)
  | .longRep0 len => .decisions (encodeSymbol (.longRep0 len))
  | .longRep1 len => .decisions (encodeSymbol (.longRep1 len))
  | .longRep2 len => .decisions (encodeSymbol (.longRep2 len))
  | .longRep3 len => .decisions (encodeSymbol (.longRep3 len))
  | .configure props dictionarySize sizeMode => .call ⟨1, props, dictionarySize, sizeMode⟩
  | .init => .call { code := 2 }
  | .step => .call { code := 3 }
  | .run => .call { code := 4 }
  | .finalize => .call { code := 5 }

end Sys2Proof
end

