-- ==== Sys2Proof/Machine/State.lean ====
section
/-! DEFINITION. The state of one session (10_state.md R30), its value after reset (10_state.md R63), and the reasons a step
can stop. -/

namespace Sys2Proof.Machine

/-- `status` (10_state.md R38). -/
inductive Status where
  | unconfigured
  | configured
  | running
  | done
  | verified
  | failed
  deriving DecidableEq, Repr

/-- `doneReason` (10_state.md R40). -/
inductive DoneReason where
  | sizeReached
  | endMarker
  deriving DecidableEq, Repr

/-- The outcome a command returns to the host (00_scope.md R13). -/
inductive Response where
  | ok
  | fail (k : FailKind)
  | refused
  deriving DecidableEq, Repr

/-- A byte sequence as an address space: address `a` is position `a`, and an address outside the sequence does not exist
(20_memory.md R75, R82). One content has one such list. Log entry 5. -/
abbrev Memory := List Byte

/-- The probability store (10_state.md R44): the slots that differ from `PROB_INIT` with their values, by rising number
(`Slot.addr`); every other slot reads `PROB_INIT`. Log entry 10. -/
abbrev ProbStore := List (Nat × Prob)

/-- The state of one session. -/
structure State where
  /-- Current interval width (10_state.md R31). -/
  range : U32
  /-- Current position within the interval (10_state.md R32). -/
  code : U32
  /-- Index of the next unread byte of `inp` (10_state.md R33). -/
  cursor : Nat
  /-- The output byte sequence (10_state.md R34). -/
  out : Memory
  /-- `state`, the LZMA state (10_state.md R35). -/
  lzmaState : LzmaState
  /-- The repeat distances (10_state.md R36). -/
  rep0 : U32
  rep1 : U32
  rep2 : U32
  rep3 : U32
  /-- The configuration registers (10_state.md R37). -/
  lc : Fin 9
  lp : Fin 5
  pb : Fin 5
  dictionarySize : U32
  bounded : Bool
  /-- Bytes still to produce in bounded mode (10_state.md R37). -/
  remaining : U64
  /-- Session status (10_state.md R38). -/
  status : Status
  /-- The failure kind once failed (10_state.md R39). -/
  errKind : Option FailKind
  /-- Why the loop stopped (10_state.md R40). -/
  doneReason : Option DoneReason
  /-- The probability store (10_state.md R44 to R56). -/
  probs : ProbStore
  /-- The input, a parameter of the session, never written (10_state.md R30, 20_memory.md R72). -/
  inp : Memory
  /-- `P_INIT_CODE_CHECK`, a parameter of the session, never written (00_scope.md R9). -/
  initCodeCheck : InitCodeCheck
  /-- The commands the host will issue, in order. The model's own field, log entry 4. -/
  calls : List Call
  /-- The outcome the last command returned. The model's own field, log entry 3. -/
  response : Option Response
  deriving DecidableEq, Repr

/-- `produced` (10_state.md R34). -/
abbrev State.produced (s : State) : Nat := s.out.length

/-- The machine right after reset, the creation of a session (10_state.md R63, 70_reset_and_hazards.md R380).
DESIGN CHOICE for what does not exist until CONFIGURE (log entry 7) and for the host's side (log entry 9). -/
def State.reset : State :=
  { range := 0, code := 0, cursor := 0, out := [], lzmaState := 0,
    rep0 := 0, rep1 := 0, rep2 := 0, rep3 := 0,
    lc := 0, lp := 0, pb := 0, dictionarySize := 0, bounded := false, remaining := 0,
    status := .unconfigured, errKind := none, doneReason := none, probs := [],
    inp := [], initCodeCheck := .none, calls := [], response := none }

/-- Why the machine stops with no next state. The spec's own failures are no such stop: they are next states
(60_exceptions.md R345, log entry 2). -/
inductive Fault where
  /-- Raised by RUN alone, when R296's number of STEPs leaves `status` at Running. R296 says no run of the hardware gets
  there. Safe: the model stops where the spec gives no later state (log entry 15). -/
  | runDiverges
  deriving DecidableEq, Repr

/-- Why an instruction has no meaning here. -/
inductive Refusal where
  /-- Raised by an arm of `exec` that has no meaning yet; no arm is left that raises it. Safe. -/
  | notModelled (mnemonic : String)
  deriving DecidableEq, Repr

end Sys2Proof.Machine
end

