-- ==== Sys2Proof/Machine/Ops.lean ====
section
/-! DEFINITION. The named operations: raising a failure, the input port, the output window, the probability store, the
range decoder, and the reading of a tree of decisions from it. -/

namespace Sys2Proof.Machine

/-! ## Failures and refusals -/

/-- `raise Fail(k)`: record the kind, end the session, return Fail(k); nothing else changes (60_exceptions.md R345).
There is no return from it (R347). -/
def raiseFail (k : FailKind) (s : State) : State :=
  { s with errKind := some k, status := .failed, response := some (.fail k) }

/-- A command that the status does not accept changes nothing and returns Refused (46_host_commands.md R326). -/
def refuse (s : State) : State := { s with response := some .refused }

/-- A command returns Ok (00_scope.md R13). -/
def respondOk (s : State) : State := { s with response := some .ok }

/-- What a part of a command gives: a value and the next state, or a failure with the state at the raise point
(00_scope.md R13, 60_exceptions.md R342). -/
inductive Res (α : Type) where
  | ok (a : α) (s : State)
  | fail (k : FailKind) (s : State)
  deriving DecidableEq, Repr

/-- Go on after a part that did not fail. -/
def Res.andThen {α β : Type} : Res α → (α → State → Res β) → Res β
  | .ok a s, f => f a s
  | .fail k s, _ => .fail k s

/-- The state a command leaves: the last one, or the failed session (60_exceptions.md R345). -/
def Res.settle : Res Unit → State
  | .ok _ s => s
  | .fail k s => raiseFail k s

/-! ## Memories -/

/-- The byte at an address, none where the address does not exist (20_memory.md R82). -/
def Memory.read (m : Memory) (a : Nat) : Option Byte := m[a]?

/-- A memory as (address, byte) pairs by rising address, from address `a` on. -/
def Memory.cellsFrom : Nat → Memory → List Host.Cell
  | _, [] => []
  | a, b :: m => (a, b) :: cellsFrom (a + 1) m

/-- A memory as (address, byte) pairs. -/
def Memory.cells (m : Memory) : List Host.Cell := Memory.cellsFrom 0 m

/-- The pairs stand by strictly rising address, each at its own position: no address is listed twice, and none below the
length is missing (an unlisted address does not exist, so no entry can equal what one reads as). -/
def Memory.wf (m : Memory) : Bool := m.cells.map Prod.fst == List.range m.length

/-! ## The input port -/

/-- ReadByte (20_memory.md R70). -/
def readByte (s : State) : Res Byte :=
  match s.inp.read s.cursor with
  | none => .fail .rangeDecoderInitFailure s
  | some b => .ok b { s with cursor := s.cursor + 1 }

/-- BytesRemaining (20_memory.md R71). -/
def bytesRemaining (s : State) : Nat := s.inp.length - s.cursor

/-! ## The output window -/

/-- WinPut(b) (44_output_window.md R261). -/
def winPut (b : Byte) (out : Memory) : Memory := out ++ [b]

/-- WinGet(d), none for the call with `d >= produced` that no rule makes (44_output_window.md R262). -/
def winGet (d : U32) (out : Memory) : Option Byte :=
  if d.toNat < out.length then out.read (out.length - d.toNat - 1) else none

/-- WinCopy(d, n), byte by byte (44_output_window.md R263). -/
def winCopy (d : U32) : Nat → Memory → Option Memory
  | 0, out => some out
  | n + 1, out =>
    match winGet d out with
    | none => none
    | some b => winCopy d n (winPut b out)

/-- CheckDist(d): the failure it raises, if any (44_output_window.md R264). -/
def checkDist (d : U32) (s : State) : Option FailKind :=
  if s.produced = 0 then some .emptyWindow
  else if s.produced ≤ d.toNat then some .insufficientHistoryForRepeat
  else if s.dictionarySize ≤ d then some .distanceExceedsDictionary
  else none

/-- WinCopy into the session's window. A copy out of range, which CheckDist rules out, raises the failure of
44_output_window.md R262, never a value (log entry 14). -/
def copyToWindow (d : U32) (n : Nat) (s : State) : Res Unit :=
  match winCopy d n s.out with
  | none => .fail .insufficientHistoryForRepeat s
  | some out => .ok () { s with out := out }

/-- `raise` the failure of a check, if it has one (60_exceptions.md R350). -/
def failIf (check : Option FailKind) (s : State) : Res Unit :=
  match check with
  | none => .ok () s
  | some k => .fail k s

/-- `n` bytes have been appended: in bounded mode `remaining` falls by `n` (45_decode_loop.md R291). -/
def countDown (n : Nat) (s : State) : State :=
  if s.bounded then { s with remaining := s.remaining - BitVec.ofNat 64 n } else s

/-- A copy of `len` bytes would pass the declared size (45_decode_loop.md R283, R289). -/
def exceedsRemaining (len : Nat) (s : State) : Bool := s.bounded && decide (s.remaining.toNat < len)

/-! ## The probability store -/


/-- The first number of a length decoder's 514 slots (10_state.md R55, R56, R60). -/
def lenSetBase : LenSet → Nat
  | .lenDec => 819
  | .repLenDec => 1333

/-- The number of a slot: the arrays of 10_state.md R45 to R56 laid end to end, the literal coders last (R60). A numbering
of the model's, which no rule reads (log entry 10). -/
def slotAddr : Slot → Nat
  | .isMatch s ps => 16 * s.val + ps.val
  | .isRep s => 192 + s.val
  | .isRepG0 s => 204 + s.val
  | .isRepG1 s => 216 + s.val
  | .isRepG2 s => 228 + s.val
  | .isRep0Long s ps => 240 + 16 * s.val + ps.val
  | .posSlot ls m => 432 + 64 * ls.val + m.val
  | .specPos i => 688 + i.val
  | .align m => 803 + m.val
  | .choice l => lenSetBase l
  | .choice2 l => lenSetBase l + 1
  | .low l ps m => lenSetBase l + 2 + 8 * ps.val + m.val
  | .mid l ps m => lenSetBase l + 130 + 8 * ps.val + m.val
  | .high l m => lenSetBase l + 258 + m.val
  | .literal k j => 1847 + 768 * k.val + j.val

/-- The value at a number (10_state.md R61: 1024 where nothing has written). -/
def probAt : ProbStore → Nat → Prob
  | [], _ => Config.probInit
  | (a, v) :: st, n => if n = a then v else if n < a then Config.probInit else probAt st n

/-- Put a value before a store that lists only higher numbers; `PROB_INIT` is not listed. -/
def probCons (n : Nat) (p : Prob) (st : ProbStore) : ProbStore :=
  if p = Config.probInit then st else (n, p) :: st

/-- Write the value at a number, keeping the form. -/
def probPut (n : Nat) (p : Prob) : ProbStore → ProbStore
  | [] => probCons n p []
  | (a, v) :: st =>
    if n = a then probCons n p st
    else if n < a then probCons n p ((a, v) :: st)
    else (a, v) :: probPut n p st

/-- The form of a store: numbers strictly rising and at least `n`, no listed value `PROB_INIT`. -/
def probWfFrom : Nat → ProbStore → Bool
  | _, [] => true
  | n, (a, v) :: st => decide (n ≤ a) && decide (v ≠ Config.probInit) && probWfFrom (a + 1) st

/-- The canonical form of a store: equal contents are equal lists. -/
def probWf (st : ProbStore) : Bool := probWfFrom 0 st

/-- `P[i]` (10_state.md R44). -/
def getProb (slot : Slot) (st : ProbStore) : Prob := probAt st (slotAddr slot)

/-- `P[i] <- p` (10_state.md R44). -/
def setProb (slot : Slot) (p : Prob) (st : ProbStore) : ProbStore := probPut (slotAddr slot) p st

/-- The slot after a decision 0: `p + ((2048 - p) >> 5)` (40_range_decoder.md R142). -/
def probUp (p : Prob) : Prob := BitVec.ofNat 11 (p.toNat + ((2048 - p.toNat) >>> Config.moveBits))

/-- The slot after a decision 1: `p - (p >> 5)` (40_range_decoder.md R142). -/
def probDown (p : Prob) : Prob := p - (p >>> Config.moveBits)

/-! ## The range decoder -/

/-- Normalize: at most one byte (40_range_decoder.md R141). -/
def normalize (s : State) : Res Unit :=
  if s.range < Config.top then
    (readByte s).andThen fun b s' =>
      .ok () { s' with range := s'.range <<< 8, code := (s'.code <<< 8) ||| b.setWidth 32 }
  else .ok () s

/-- `bound` of a decision (40_range_decoder.md R142, R143). -/
def boundOf (slot : Slot) (s : State) : U32 := (s.range >>> 11) * (getProb slot s.probs).setWidth 32

/-- The registers after a decision 0, before Normalize (40_range_decoder.md R142). -/
def takeZero (slot : Slot) (s : State) : State :=
  { s with range := boundOf slot s, probs := setProb slot (probUp (getProb slot s.probs)) s.probs }

/-- The registers after a decision 1, before Normalize (40_range_decoder.md R142). -/
def takeOne (slot : Slot) (s : State) : State :=
  { s with range := s.range - boundOf slot s, code := s.code - boundOf slot s,
           probs := setProb slot (probDown (getProb slot s.probs)) s.probs }

/-- DecodeBit(P[i]) (40_range_decoder.md R142). The writes before a failing Normalize stay (R151). -/
def decodeBit (slot : Slot) (s : State) : Res Bool :=
  if s.code < boundOf slot s then
    (normalize (takeZero slot s)).andThen fun _ s' => .ok false s'
  else
    (normalize (takeOne slot s)).andThen fun _ s' => .ok true s'

/-- The registers after one direct bit, before Normalize, and the bit (40_range_decoder.md R145). -/
def takeDirect (s : State) : Bool × State :=
  if s.range >>> 1 ≤ s.code then
    (true, { s with range := s.range >>> 1, code := s.code - (s.range >>> 1) })
  else (false, { s with range := s.range >>> 1 })

/-- One bit of DecodeDirectBits (40_range_decoder.md R145). -/
def decodeDirectBit (s : State) : Res Bool :=
  (normalize (takeDirect s).2).andThen fun _ s' => .ok (takeDirect s).1 s'

/-- One decision. -/
def takeDecision (d : Decision) (s : State) : Res Bool :=
  match d with
  | .adaptive slot => decodeBit slot s
  | .direct => decodeDirectBit s

/-- Read a tree of decisions from the range decoder, each decision seeing what the one before left (20_memory.md R83). -/
def runFetch {α : Type} : Fetch α → State → Res α
  | .done a, s => .ok a s
  | .fail k, s => .fail k s
  | .ask d next, s =>
    match takeDecision d s with
    | .ok b s' => runFetch (next b) s'
    | .fail k s' => .fail k s'

/-- Read `n` bytes into `code`, the first the most significant (20_memory.md R78). -/
def readCode : Nat → State → Res Unit
  | 0, s => .ok () s
  | n + 1, s =>
    (readByte s).andThen fun b s' => readCode n { s' with code := (s'.code <<< 8) ||| b.setWidth 32 }

/-- The check of the initial code under `P_INIT_CODE_CHECK` (40_range_decoder.md R140). -/
def checkInitCode (s : State) : Res Unit :=
  if s.range ≤ s.code ∧ s.initCodeCheck = .reject then .fail .rangeDecoderInitFailure s else .ok () s

/-- RcInit (40_range_decoder.md R140). -/
def rcInit (s : State) : Res Unit :=
  if bytesRemaining s < 5 then .fail .rangeDecoderInitFailure s
  else
    (readByte s).andThen fun _ s1 =>
      (readCode 4 { s1 with code := 0 }).andThen fun _ s2 =>
        checkInitCode { s2 with range := Config.rangeInit }

/-- IsFinishedOK (40_range_decoder.md R148). -/
def isFinishedOk (s : State) : Bool := s.code == 0

end Sys2Proof.Machine
end

