-- ==== Sys2Proof/Machine/Flags.lean ====
section
/-! DEFINITION. The control registers, which stand in for flags (10_state.md R42): the codes the host reads (R38,
60_exceptions.md R340) and their changes; the four updates of `state` (42_state_machine.md R191 to R194) and of the repeat
distances (45_decode_loop.md R292). -/

namespace Sys2Proof.Machine

/-! ## Control registers -/

/-- The code of a status (10_state.md R38). -/
def statusCode : Status → Nat
  | .unconfigured => 0
  | .configured => 1
  | .running => 2
  | .done => 3
  | .verified => 4
  | .failed => 5

/-- The code of a failure kind, 0 for none (60_exceptions.md R340). -/
def failCode : Option FailKind → Nat
  | none => 0
  | some .invalidProperties => 1
  | some .rangeDecoderInitFailure => 2
  | some .uncompressedSizeExceeded => 3
  | some .emptyWindow => 4
  | some .rangeDecoderResidualError => 5
  | some .repeatLengthExceedsRemaining => 6
  | some .insufficientHistoryForRepeat => 7
  | some .uninitializedDecoder => 8
  | some .prematureEndMarker => 9
  | some .distanceExceedsDictionary => 10

/-- The loop has reached its terminal condition (45_decode_loop.md R280, R284). -/
def reachDone (r : DoneReason) (s : State) : State := { s with status := .done, doneReason := some r }

/-- The loop's size test: bounded with nothing remaining (45_decode_loop.md R280). -/
def sizeReached (s : State) : Bool := s.bounded && s.remaining == 0

/-! ## The 12-state automaton -/

/-- UpdateLiteral (42_state_machine.md R191). -/
def updateLiteral (s : LzmaState) : LzmaState :=
  if s.val < 4 then 0 else if s.val < 10 then s - 3 else s - 6

/-- UpdateMatch (42_state_machine.md R192). -/
def updateMatch (s : LzmaState) : LzmaState := if s.val < 7 then 7 else 10

/-- UpdateRep (42_state_machine.md R193). -/
def updateRep (s : LzmaState) : LzmaState := if s.val < 7 then 8 else 11

/-- UpdateShortRep (42_state_machine.md R194). -/
def updateShortRep (s : LzmaState) : LzmaState := if s.val < 7 then 9 else 11

/-! ## The repeat distances -/

/-- `rep[k]` (10_state.md R36). -/
def repAt (k : Fin 4) (s : State) : U32 :=
  match k with
  | 0 => s.rep0
  | 1 => s.rep1
  | 2 => s.rep2
  | 3 => s.rep3

/-- A MATCH puts its distance first (45_decode_loop.md R283, R292). -/
def pushRep (dist : U32) (s : State) : State :=
  { s with rep0 := dist, rep1 := s.rep0, rep2 := s.rep1, rep3 := s.rep2 }

/-- A LONGREPk moves `rep[k]` to the front (45_decode_loop.md R289, R292). -/
def promoteRep (k : Fin 4) (s : State) : State :=
  match k with
  | 0 => s
  | 1 => { s with rep0 := s.rep1, rep1 := s.rep0 }
  | 2 => { s with rep0 := s.rep2, rep1 := s.rep0, rep2 := s.rep1 }
  | 3 => { s with rep0 := s.rep3, rep1 := s.rep0, rep2 := s.rep1, rep3 := s.rep2 }

end Sys2Proof.Machine
end

