-- ==== Sys2Proof/Machine/Operands.lean ====
section
/-! DEFINITION. What selects a symbol's contexts, taken at the symbol's start (42_state_machine.md R196 to R199, R202), and
the split of the properties byte (46_host_commands.md R321). -/

namespace Sys2Proof.Machine

/-- `posState` (42_state_machine.md R196). -/
def posState (s : State) : Fin 16 := Fin.ofNat 16 (s.produced &&& ((1 <<< s.pb.val) - 1))

/-- `prevByte`: 0 for an empty output (42_state_machine.md R199). -/
def prevByte (s : State) : Byte := (winGet 0 s.out).getD 0

/-- `litState` (42_state_machine.md R198). -/
def litState (s : State) : Fin 4096 :=
  Fin.ofNat 4096
    (((s.produced &&& ((1 <<< s.lp.val) - 1)) <<< s.lc.val) + ((prevByte s).toNat >>> (8 - s.lc.val)))

/-- The literal mode: matched against `WinGet(rep0)` when `state >= 7` (42_state_machine.md R202). -/
def literalMode (s : State) : LiteralMode :=
  if 7 ≤ s.lzmaState.val then
    match winGet s.rep0 s.out with
    | some mb => .matched mb
    | none => .unreadable
  else .plain

/-- The context of the next symbol (42_state_machine.md R198, 45_decode_loop.md R281, R289, R290). -/
def contextOf (s : State) : Context :=
  { s := s.lzmaState, ps := posState s, litState := litState s, literalMode := literalMode s,
    repPath := if s.produced = 0 then some .emptyWindow else none,
    rep0 := checkDist s.rep0 s, rep1 := checkDist s.rep1 s,
    rep2 := checkDist s.rep2 s, rep3 := checkDist s.rep3 s }

/-- DecodeSymbol's decoding: the kind prefix and the operand fields of the next symbol, from the range decoder
(45_decode_loop.md R281). -/
def fetchSymbol (s : State) : Res Symbol := runFetch (symbolFetch (contextOf s)) s

/-- PropsDecode(props), for `props <= 224`: `lc`, `lp`, `pb` (46_host_commands.md R321). -/
def propsDecode (props : Byte) : Fin 9 × Fin 5 × Fin 5 :=
  (Fin.ofNat 9 (props.toNat % 9), Fin.ofNat 5 (props.toNat / 9 % 5), Fin.ofNat 5 (props.toNat / 45))

end Sys2Proof.Machine
end

