-- ==== Sys2Proof/Machine/Symbols.lean ====
section
/-! DEFINITION. The meanings of the eight symbol kinds (45_decode_loop.md R282 to R289): what a symbol does once its prefix
and its operand fields have been decoded. The writes of the decoding itself (slots, `range`, `code`, `cursor`) are
`fetchSymbol`'s, which STEP runs before these (log entry 1). -/

namespace Sys2Proof.Machine

/-- LIT's effect (45_decode_loop.md R282). -/
def litEffect (b : Byte) (s : State) : State :=
  countDown 1 { s with out := winPut b s.out, lzmaState := updateLiteral s.lzmaState }

/-- LIT (45_decode_loop.md R282). -/
def execLit (b : Byte) (s : State) : Host.Outcome State Fault Refusal := .next (litEffect b s)

/-- MATCH's effect: every check comes first, then the reps, `state` and the copy (45_decode_loop.md R283). -/
def newMatchEffect (len : Nat) (dist : U32) (s : State) : State :=
  ((failIf (checkDist dist s) s).andThen fun _ s =>
    (failIf (if exceedsRemaining len s then some .uncompressedSizeExceeded else none) s).andThen fun _ s =>
      (copyToWindow dist len { pushRep dist s with lzmaState := updateMatch s.lzmaState }).andThen fun _ s =>
        .ok () (countDown len s)).settle

/-- MATCH (45_decode_loop.md R283). -/
def execNewMatch (len : Nat) (dist : U32) (s : State) : Host.Outcome State Fault Refusal :=
  .next (newMatchEffect len dist s)

/-- EOS's effect; the length is ignored (45_decode_loop.md R284). -/
def eosEffect (_len : Nat) (s : State) : State :=
  if s.bounded then raiseFail .prematureEndMarker s else reachDone .endMarker s

/-- EOS (45_decode_loop.md R284). -/
def execEos (len : Nat) (s : State) : Host.Outcome State Fault Refusal := .next (eosEffect len s)

/-- SHORTREP's effect (45_decode_loop.md R285). -/
def shortRepEffect (s : State) : State :=
  ((failIf (checkDist s.rep0 s) s).andThen fun _ s =>
    (copyToWindow s.rep0 1 { s with lzmaState := updateShortRep s.lzmaState }).andThen fun _ s =>
      .ok () (countDown 1 s)).settle

/-- SHORTREP (45_decode_loop.md R285). -/
def execShortRep (s : State) : Host.Outcome State Fault Refusal := .next (shortRepEffect s)

/-- LONGREP(k) with its length decoded (45_decode_loop.md R289). CheckDist stands before the length in the rule:
`symbolFetch` runs it there, and it is the same here, since decoding writes nothing it reads (log entry 13). -/
def longRepEffect (k : Fin 4) (len : Nat) (s : State) : State :=
  ((failIf (checkDist (repAt k s) s) s).andThen fun _ s =>
    (failIf (if exceedsRemaining len s then some .repeatLengthExceedsRemaining else none) s).andThen fun _ s =>
      (copyToWindow (repAt k s) len { promoteRep k s with lzmaState := updateRep s.lzmaState }).andThen fun _ s =>
        .ok () (countDown len s)).settle

/-- LONGREP0's effect (45_decode_loop.md R286). -/
def longRep0Effect (len : Nat) (s : State) : State := longRepEffect 0 len s

/-- LONGREP0 (45_decode_loop.md R286). -/
def execLongRep0 (len : Nat) (s : State) : Host.Outcome State Fault Refusal := .next (longRep0Effect len s)

/-- LONGREP1's effect (45_decode_loop.md R287). -/
def longRep1Effect (len : Nat) (s : State) : State := longRepEffect 1 len s

/-- LONGREP1 (45_decode_loop.md R287). -/
def execLongRep1 (len : Nat) (s : State) : Host.Outcome State Fault Refusal := .next (longRep1Effect len s)

/-- LONGREP2's effect (45_decode_loop.md R288). -/
def longRep2Effect (len : Nat) (s : State) : State := longRepEffect 2 len s

/-- LONGREP2 (45_decode_loop.md R288). -/
def execLongRep2 (len : Nat) (s : State) : Host.Outcome State Fault Refusal := .next (longRep2Effect len s)

/-- LONGREP3's effect (45_decode_loop.md R289). -/
def longRep3Effect (len : Nat) (s : State) : State := longRepEffect 3 len s

/-- LONGREP3 (45_decode_loop.md R289). -/
def execLongRep3 (len : Nat) (s : State) : Host.Outcome State Fault Refusal := .next (longRep3Effect len s)

/-- The effect of a decoded symbol (45_decode_loop.md R281). -/
def symbolEffect (y : Symbol) (s : State) : State :=
  match y with
  | .lit b => litEffect b s
  | .newMatch len dist => newMatchEffect len dist s
  | .eos len => eosEffect len s
  | .shortRep => shortRepEffect s
  | .longRep0 len => longRep0Effect len s
  | .longRep1 len => longRep1Effect len s
  | .longRep2 len => longRep2Effect len s
  | .longRep3 len => longRep3Effect len s

end Sys2Proof.Machine
end

