-- ==== Sys2Proof/Machine/Commands.lean ====
section
/-! DEFINITION. The meanings of the five host commands (46_host_commands.md R320 to R326). -/

namespace Sys2Proof.Machine

/-- DecodeSymbol: decode the next symbol and run its rule, or fail where the decoding fails (45_decode_loop.md R281). -/
def decodeSymbolStep (s : State) : State :=
  match fetchSymbol s with
  | .ok y s' => symbolEffect y s'
  | .fail k s' => raiseFail k s'

/-- A STEP while Running: the size test, then one symbol (45_decode_loop.md R280). -/
def runningStep (s : State) : State :=
  if sizeReached s then reachDone .sizeReached s else decodeSymbolStep s

/-- STEP's effect in every status (45_decode_loop.md R280, 46_host_commands.md R326). -/
def stepEffect (s : State) : State :=
  match s.status with
  | .unconfigured => raiseFail .uninitializedDecoder s
  | .configured => raiseFail .uninitializedDecoder s
  | .running => runningStep (respondOk s)
  | .done => respondOk s
  | .verified => respondOk s
  | .failed => respondOk s

/-- STEP (45_decode_loop.md R280). -/
def execStep (s : State) : Host.Outcome State Fault Refusal := .next (stepEffect s)

/-- `while status = Running: STEP()`, with at most `n` STEPs; none when Running still holds after them
(45_decode_loop.md R295). -/
def runLoop : Nat → State → Option State
  | 0, s => if s.status = .running then none else some s
  | n + 1, s => if s.status = .running then runLoop n (stepEffect s) else some s

/-- The STEPs a RUN takes at most (45_decode_loop.md R296). -/
def runBound (s : State) : Nat := Config.decisionsPerByte * (s.inp.length - s.cursor + 1)

/-- The loop of RUN, once the decoder is initialized (45_decode_loop.md R295). -/
def runToEnd (s : State) : Host.Outcome State Fault Refusal :=
  match runLoop (runBound s) (respondOk s) with
  | some s' => .next s'
  | none => .fault .runDiverges

/-- RUN (45_decode_loop.md R295). -/
def execRun (s : State) : Host.Outcome State Fault Refusal :=
  match s.status with
  | .unconfigured => .next (raiseFail .uninitializedDecoder s)
  | .configured => .next (raiseFail .uninitializedDecoder s)
  | .running => runToEnd s
  | .done => runToEnd s
  | .verified => runToEnd s
  | .failed => runToEnd s

/-- CONFIGURE's writes for legal properties (46_host_commands.md R320). -/
def setParameters (props : Byte) (dictionarySize : U32) (sizeMode : SizeMode) (s : State) : State :=
  { s with
    lc := (propsDecode props).1, lp := (propsDecode props).2.1, pb := (propsDecode props).2.2,
    dictionarySize := dictionarySize,
    bounded := match sizeMode with
      | .bounded _ => true
      | .unbounded => false,
    remaining := match sizeMode with
      | .bounded n => n
      | .unbounded => 0,
    probs := [], lzmaState := 0, rep0 := 0, rep1 := 0, rep2 := 0, rep3 := 0,
    status := .configured }

/-- CONFIGURE (46_host_commands.md R320). -/
def execConfigure (props : Byte) (dictionarySize : U32) (sizeMode : SizeMode) (s : State) :
    Host.Outcome State Fault Refusal :=
  if s.status ≠ .unconfigured then .next (refuse s)
  else if Config.propsLimit ≤ props.toNat then .next (raiseFail .invalidProperties s)
  else .next (respondOk (setParameters props dictionarySize sizeMode s))

/-- INIT (46_host_commands.md R322). -/
def execInit (s : State) : Host.Outcome State Fault Refusal :=
  if s.status ≠ .configured then .next (refuse s)
  else .next ((rcInit s).andThen fun _ s' => .ok () (respondOk { s' with status := .running })).settle

/-- FINALIZE (46_host_commands.md R325). -/
def execFinalize (s : State) : Host.Outcome State Fault Refusal :=
  if s.status ≠ .done then .next (refuse s)
  else if isFinishedOk s then .next (respondOk { s with status := .verified })
  else .next (raiseFail .rangeDecoderResidualError s)

end Sys2Proof.Machine
end

