-- ==== Sys2Proof/Machine/Dispatch.lean ====
section
/-! DEFINITION. One arm per instruction. -/

namespace Sys2Proof.Machine

def exec (i : Instr) (s : State) : Host.Outcome State Fault Refusal :=
  match i with
  | .lit b => Sys2Proof.Machine.execLit b s
  | .newMatch len dist => Sys2Proof.Machine.execNewMatch len dist s
  | .eos len => Sys2Proof.Machine.execEos len s
  | .shortRep => Sys2Proof.Machine.execShortRep s
  | .longRep0 len => Sys2Proof.Machine.execLongRep0 len s
  | .longRep1 len => Sys2Proof.Machine.execLongRep1 len s
  | .longRep2 len => Sys2Proof.Machine.execLongRep2 len s
  | .longRep3 len => Sys2Proof.Machine.execLongRep3 len s
  | .configure props dictionarySize sizeMode => Sys2Proof.Machine.execConfigure props dictionarySize sizeMode s
  | .init => Sys2Proof.Machine.execInit s
  | .step => Sys2Proof.Machine.execStep s
  | .run => Sys2Proof.Machine.execRun s
  | .finalize => Sys2Proof.Machine.execFinalize s

end Sys2Proof.Machine
end

