-- ==== Sys2Proof/Machine/HostPort.lean ====
section
/-! DEFINITION. The host's side of the core: the command it issues next, what it reads, and how a table word is placed where
the next step finds it (46_host_commands.md R326, R328, R330). -/

namespace Sys2Proof.Machine

/-- The command the host issues next, and the state in which it runs (46_host_commands.md R330). -/
def nextCall (s : State) : Option (Call × State) :=
  match s.calls with
  | [] => none
  | c :: rest => some (c, { s with calls := rest })

/-- What the host may inspect for diagnosis after a failure, beside what it reads at any time (60_exceptions.md R368,
10_state.md R41). -/
structure Diagnosis where
  cursor : Nat
  range : U32
  code : U32
  lzmaState : LzmaState
  rep0 : U32
  rep1 : U32
  rep2 : U32
  rep3 : U32
  probs : ProbStore
  deriving DecidableEq, Repr

/-- The diagnostic values of a state: those at the raise point, since a failure changes none of them (60_exceptions.md
R368, R342). -/
def diagnosticState (s : State) : Diagnosis :=
  { cursor := s.cursor, range := s.range, code := s.code, lzmaState := s.lzmaState,
    rep0 := s.rep0, rep1 := s.rep1, rep2 := s.rep2, rep3 := s.rep3, probs := s.probs }

/-- The diagnostic inspection: in Failed alone (46_host_commands.md R328, 60_exceptions.md R364, R368). -/
def diagnose (s : State) : Option Diagnosis :=
  match s.status with
  | .unconfigured => none
  | .configured => none
  | .running => none
  | .done => none
  | .verified => none
  | .failed => some (diagnosticState s)

/-- All the host reads: what R328 lists, with the outcome of its last command (00_scope.md R13), and after a failure the
diagnostic state (10_state.md R41, 46_host_commands.md R328, 60_exceptions.md R364, R368). -/
structure HostView where
  status : Status
  errKind : Option FailKind
  doneReason : Option DoneReason
  out : Memory
  produced : Nat
  response : Option Response
  diagnosis : Option Diagnosis
  deriving DecidableEq, Repr

/-- All the host reads; reading changes nothing (46_host_commands.md R328). -/
def hostView (s : State) : HostView :=
  { status := s.status, errKind := s.errKind, doneReason := s.doneReason, out := s.out, produced := s.produced,
    response := s.response, diagnosis := diagnose s }

/-- The low end of the code interval that decodes the given bits with fresh slots, from the low end `low` and the width
`range` so far (40_range_decoder.md R144, 95_test_vectors.md section 2.5). -/
def codeFor : List Bool → U32 → U32 → U32
  | [], low, _ => low
  | b :: bits, low, range =>
    if b then codeFor bits (low + (range >>> 11) * 1024) (range - (range >>> 11) * 1024)
    else codeFor bits low ((range >>> 11) * 1024)

/-- The initial code whose first decisions are the window `w`; with zero bytes after it every later decision is 0. -/
def windowCode (w : Nat) : U32 := codeFor (windowBits w) 0 Config.rangeInit

/-- The four bytes of a code, most significant first (20_memory.md R78). -/
def codeBytes (c : U32) : Memory :=
  [(c >>> 24).setWidth 8, (c >>> 16).setWidth 8, (c >>> 8).setWidth 8, c.setWidth 8]

/-- A window of the rep path: prefix 11 (30_encoding.md R102). Its kind is decoded only with a byte of output and, for a
LONGREP, a dictionary that holds it (45_decode_loop.md R289, R290). -/
def isRepWindow (w : Nat) : Bool := decide (24 ≤ w)

/-- A session whose next STEP decodes the window `w`: the stream as INIT leaves it, fresh slots, unbounded, STEP as the next
command, and for a rep the byte it refers to. DESIGN CHOICE, log entry 12. -/
def placeWindow (w : Nat) (s : State) : State :=
  { s with
    inp := [0] ++ codeBytes (windowCode w) ++ List.replicate 16 0, cursor := 5,
    range := Config.rangeInit, code := windowCode w, probs := [],
    status := .running, bounded := false,
    out := if isRepWindow w && s.out.isEmpty then [0] else s.out,
    dictionarySize := if isRepWindow w && s.dictionarySize == 0 then 1 else s.dictionarySize,
    calls := { code := 3 } :: s.calls }

/-- Place what stands at a table word (`tableEncoded`) where the next step takes it. -/
def placeTableWord (w : Nat) (s : State) : State :=
  match tableEncoded w with
  | .call c => { s with calls := c :: s.calls }
  | .decisions _ => placeWindow w s

end Sys2Proof.Machine
end

