-- ==== Sys2Proof/Machine/Step.lean ====
section
/-! DEFINITION. One step: the host's next command runs whole (46_host_commands.md R330). -/

namespace Sys2Proof.Machine

/-- One step. The next command is decoded and executed; an unassigned code is refused and changes nothing
(46_host_commands.md R326); with no command the core does nothing (60_exceptions.md R363). -/
def step (s : State) : Host.Outcome State Fault Refusal :=
  match nextCall s with
  | none => .next s
  | some (c, s') =>
    match decodeCall c with
    | .ok i => exec i s'
    | .error _ => .next (refuse s')

/-- `s` with the instruction of a table word placed where `step` takes its next instruction (log entry 12). -/
def State.withFetchWord (s : State) (_nbits w : Nat) : State := placeTableWord w s

end Sys2Proof.Machine
end

