-- ==== Sys2Proof/Safety.lean ====
section
/-! DEFINITION. What the claims speak of: the invariant of the machine, and when an output is final. -/

namespace Sys2Proof.Machine

/-- The output is final (20_memory.md R84). -/
def outputFinal (s : State) : Bool := s.status == .verified

/-- The session runs, or has ended without a failure. -/
def afterInit (s : State) : Bool := s.status == .running || s.status == .done || s.status == .verified

/-- No symbol has been decoded yet. -/
def beforeInit (s : State) : Bool := s.status == .unconfigured || s.status == .configured

/-- The bytes a symbol appends (43_length_distance.md R232, 45_decode_loop.md R291). -/
def symbolLen : Symbol → Nat
  | .lit _ => 1
  | .newMatch len _ => len
  | .eos _ => 0
  | .shortRep => 1
  | .longRep0 len => len
  | .longRep1 len => len
  | .longRep2 len => len
  | .longRep3 len => len

/-- The slots a decoding asks for when its decisions come out as the given bits (42_state_machine.md R198). -/
def fetchSlots {α : Type} : Fetch α → List Bool → List Slot
  | .ask (.adaptive slot) next, b :: bits => slot :: fetchSlots (next b) bits
  | .ask .direct next, b :: bits => fetchSlots (next b) bits
  | _, _ => []

/-- The failure that the context raises inside a symbol's decoding, if any: EmptyWindow for every rep kind, CheckDist of the
rep for a LONGREP (45_decode_loop.md R289, R290); for a LIT with no byte to match, which 42_state_machine.md R203 makes
unreachable, the failure that 44_output_window.md R262 allows (DEDUCED, log entry 14). -/
def contextCheck (c : Context) : Symbol → Option FailKind
  | .lit _ => if c.literalMode = .unreadable then some .insufficientHistoryForRepeat else none
  | .newMatch _ _ => none
  | .eos _ => none
  | .shortRep => c.repPath
  | .longRep0 _ => c.repPath.or c.rep0
  | .longRep1 _ => c.repPath.or c.rep1
  | .longRep2 _ => c.repPath.or c.rep2
  | .longRep3 _ => c.repPath.or c.rep3

/-! ## The slots of a symbol, from the tables of 42_state_machine.md R198, R200, R201 and 43_length_distance.md R230, R240,
R243, R244: in decoding order, each with its decision. Written from those tables and not from `symbolFetch`. -/

/-- The indices and decisions of a forward tree of `n` bits that gives `v`: after `k` decisions the index is a 1 and the
`k` high bits of `v` (41_bit_tree.md R170). -/
def forwardWalk (n v : Nat) : List (Nat × Bool) :=
  (List.range n).map fun k => (2 ^ k + v / 2 ^ (n - k), v.testBit (n - 1 - k))

/-- The `k` low bits of `v` in reverse order. -/
def reverseLow : Nat → Nat → Nat
  | 0, _ => 0
  | k + 1, v => 2 * reverseLow k v + (v.testBit k).toNat

/-- The indices and decisions of a reverse tree of `n` bits that gives `v` (41_bit_tree.md R171). -/
def reverseWalk (n v : Nat) : List (Nat × Bool) :=
  (List.range n).map fun k => (2 ^ k + reverseLow k v, v.testBit k)

/-- The slots of a walk. -/
def walkSlots (P : Nat → Slot) (walk : List (Nat × Bool)) : List (Slot × Bool) := walk.map fun e => (P e.1, e.2)

/-- The literal slots of `b` against `mb`: `0x100 + (mbit << 8) + sym` while the high bits agree, then `sym`
(42_state_machine.md R201). -/
def matchedWalk (mb b : Nat) : List (Nat × Bool) :=
  (List.range 8).map fun k =>
    (2 ^ k + b / 2 ^ (8 - k) +
      (if b / 2 ^ (8 - k) = mb / 2 ^ (8 - k) then 0x100 + 0x100 * (mb.testBit (7 - k)).toNat else 0),
     b.testBit (7 - k))

/-- The slots of a literal (42_state_machine.md R200 to R202). -/
def literalSlots (c : Context) (b : Byte) : List (Slot × Bool) :=
  match c.literalMode with
  | .plain => walkSlots (literalSlot c.litState) (forwardWalk 8 b.toNat)
  | .matched mb => walkSlots (literalSlot c.litState) (matchedWalk mb.toNat b.toNat)
  | .unreadable => []

/-- The slots of a length (43_length_distance.md R230). -/
def lenSlots (l : LenSet) (ps : Fin 16) (len : Nat) : List (Slot × Bool) :=
  if len < 10 then (.choice l, false) :: walkSlots (fun m => .low l ps (Fin.ofNat 8 m)) (forwardWalk 3 (len - 2))
  else if len < 18 then
    (.choice l, true) :: (.choice2 l, false) ::
      walkSlots (fun m => .mid l ps (Fin.ofNat 8 m)) (forwardWalk 3 (len - 10))
  else
    (.choice l, true) :: (.choice2 l, true) ::
      walkSlots (fun m => .high l (Fin.ofNat 256 m)) (forwardWalk 8 (len - 18))

/-- The slots of a distance after a length: the tree of `min(length - 2, 3)`, then `specPos` from `base - slot` on for slots
4..13, `align` for slots 14..63 (43_length_distance.md R240, R243, R244). -/
def distSlots (len d : Nat) : List (Slot × Bool) :=
  walkSlots (fun m => .posSlot (Fin.ofNat 4 (min (len - 2) 3)) (Fin.ofNat 64 m)) (forwardWalk 6 (distSlot d)) ++
    (if distSlot d < 4 then []
     else if distSlot d < 14 then
       walkSlots (fun m => .specPos (Fin.ofNat 115 (slotBase (distSlot d) - distSlot d + m)))
         (reverseWalk (slotNd (distSlot d)) (d - slotBase (distSlot d)))
     else walkSlots (fun m => .align (Fin.ofNat 16 m)) (reverseWalk 4 (d % 16)))

/-- The slots of a symbol in decoding order, each with its decision (42_state_machine.md R198). -/
def symbolSlots (c : Context) : Symbol → List (Slot × Bool)
  | .lit b => (.isMatch c.s c.ps, false) :: literalSlots c b
  | .newMatch len dist =>
    (.isMatch c.s c.ps, true) :: (.isRep c.s, false) :: (lenSlots .lenDec c.ps len ++ distSlots len dist.toNat)
  | .eos len =>
    (.isMatch c.s c.ps, true) :: (.isRep c.s, false) :: (lenSlots .lenDec c.ps len ++ distSlots len 0xFFFFFFFF)
  | .shortRep => [(.isMatch c.s c.ps, true), (.isRep c.s, true), (.isRepG0 c.s, false), (.isRep0Long c.s c.ps, false)]
  | .longRep0 len =>
    (.isMatch c.s c.ps, true) :: (.isRep c.s, true) :: (.isRepG0 c.s, false) :: (.isRep0Long c.s c.ps, true) ::
      lenSlots .repLenDec c.ps len
  | .longRep1 len =>
    (.isMatch c.s c.ps, true) :: (.isRep c.s, true) :: (.isRepG0 c.s, true) :: (.isRepG1 c.s, false) ::
      lenSlots .repLenDec c.ps len
  | .longRep2 len =>
    (.isMatch c.s c.ps, true) :: (.isRep c.s, true) :: (.isRepG0 c.s, true) :: (.isRepG1 c.s, true) ::
      (.isRepG2 c.s, false) :: lenSlots .repLenDec c.ps len
  | .longRep3 len =>
    (.isMatch c.s c.ps, true) :: (.isRep c.s, true) :: (.isRepG0 c.s, true) :: (.isRepG1 c.s, true) ::
      (.isRepG2 c.s, true) :: lenSlots .repLenDec c.ps len

/-! ## Copies and the invariant -/

/-- A copy of `len` bytes from distance `d` passes every check: the distance lies within the output and the dictionary, the
length within `remaining` (44_output_window.md R264, 45_decode_loop.md R283, R289). -/
def CopyAllowed (d : U32) (len : Nat) (s : State) : Prop :=
  d.toNat < s.produced ∧ d < s.dictionarySize ∧ (s.bounded = true → len ≤ s.remaining.toNat)

/-- `out` is the window of `s` with `len` bytes appended, each the byte `d + 1` positions before it, so a repetition with
period `d + 1` of what stood at the end (44_output_window.md R265). -/
def IsCopy (d : U32) (len : Nat) (s : State) (out : Memory) : Prop :=
  out.length = s.produced + len ∧ (∀ a, a < s.produced → out.read a = s.out.read a) ∧
    ∀ i, i < len → out.read (s.produced + i) = s.out.read (s.produced - (d.toNat + 1) + i % (d.toNat + 1))

/-- `remaining` after `n` bytes (45_decode_loop.md R291). -/
def remainingAfter (n : Nat) (s : State) : U64 :=
  if s.bounded then s.remaining - BitVec.ofNat 64 n else s.remaining

/-- The store is in its form and every slot holds a value in 31..2017 (10_state.md R57). -/
abbrev ProbsInv (s : State) : Prop :=
  probWf s.probs = true ∧ ∀ e ∈ s.probs, 31 ≤ e.2.toNat ∧ e.2.toNat ≤ 2017

/-- Between decode operations `range >= 2^24` (10_state.md R31, 40_range_decoder.md R146). -/
abbrev RangeInv (s : State) : Prop := afterInit s = true → Config.top ≤ s.range

/-- `0 <= cursor <= |inp|` (10_state.md R33). -/
abbrev CursorInv (s : State) : Prop := s.cursor ≤ s.inp.length

/-- A rep is an initial 0, or below `produced` and below `dictionarySize` (45_decode_loop.md R293). -/
abbrev RepInv (s : State) (d : U32) : Prop := d = 0 ∨ (d.toNat < s.produced ∧ d < s.dictionarySize)

/-- Every rep (45_decode_loop.md R293). -/
abbrev RepsInv (s : State) : Prop := RepInv s s.rep0 ∧ RepInv s s.rep1 ∧ RepInv s s.rep2 ∧ RepInv s s.rep3

/-- A non-literal `state` follows a back-reference, so there is output (42_state_machine.md R197, R203). -/
abbrev MatchedInv (s : State) : Prop := 7 ≤ s.lzmaState.val → s.out ≠ []

/-- `errKind` is recorded exactly in Failed (10_state.md R39). -/
abbrev ErrInv (s : State) : Prop := s.errKind = none ↔ s.status ≠ .failed

/-- `doneReason` is recorded once the loop has reached its end, and says how (10_state.md R40). -/
abbrev DoneInv (s : State) : Prop :=
  ((s.status = .done ∨ s.status = .verified) → s.doneReason ≠ none) ∧
  ((beforeInit s = true ∨ s.status = .running) → s.doneReason = none) ∧
  (s.doneReason = some .sizeReached → s.bounded = true ∧ s.remaining = 0) ∧
  (s.doneReason = some .endMarker → s.bounded = false)

/-- Before INIT nothing has been read or produced, and the automaton and the slots stand at their start
(70_reset_and_hazards.md R380, R382). -/
abbrev StartInv (s : State) : Prop :=
  beforeInit s = true → s.cursor = 0 ∧ s.out = [] ∧ s.lzmaState = 0 ∧ s.probs = []

/-- Verified means a residual of 0 (46_host_commands.md R325). -/
abbrev VerifiedInv (s : State) : Prop := s.status = .verified → s.code = 0

/-- The invariant of the machine: every step keeps it. -/
structure Inv (s : State) : Prop where
  probs : ProbsInv s
  range : RangeInv s
  cursor : CursorInv s
  reps : RepsInv s
  matched : MatchedInv s
  err : ErrInv s
  done : DoneInv s
  start : StartInv s
  verified : VerifiedInv s

end Sys2Proof.Machine
end

