-- ==== Sys2Proof/Certificates/Slice0/Obligations.lean ====
section
/-! DEFINITION. The statements for the provers. Each docstring names the rule of the spec it formalises. -/

open Sys2Proof Sys2Proof.Machine

/-! ## Reset and the invariant -/

/-- The values 10_state.md R63 gives at reset. The configuration registers, the store and the host's side are the model's
choice (log entries 7, 9) and not stated here. -/
def Obligations.ResetValues : Prop :=
  State.reset.status = .unconfigured ∧ State.reset.errKind = none ∧ State.reset.doneReason = none ∧
    State.reset.cursor = 0 ∧ State.reset.out = [] ∧ State.reset.range = 0 ∧ State.reset.code = 0 ∧
    State.reset.lzmaState = 0 ∧ State.reset.rep0 = 0 ∧ State.reset.rep1 = 0 ∧ State.reset.rep2 = 0 ∧
    State.reset.rep3 = 0

/-- The invariant holds after reset. For the store and its being empty before INIT this rests on the model's choice that
every slot reads 1024 while the store does not exist (log entry 7, DESIGN CHOICE), for the rest on 10_state.md R63. -/
def Obligations.ResetMeetsInvariant : Prop := Inv State.reset

/-- Every step keeps the invariant: slots in 31..2017 (R57), range at least 2^24 (R146), cursor within the input (R33),
reps within the output and the dictionary (R293), output under a non-literal state (R203), errKind exactly in Failed
(R39), doneReason (R40), Verified only with code 0 (R325). -/
def Obligations.StepKeepsInvariant : Prop :=
  ∀ s s' : State, Inv s → step s = .next s' → Inv s'

/-! ## Encoding -/

/-- Decoding an encoded well-formed instruction gives it back, with every operand (30_encoding.md R102 to R110, R119). -/
def Obligations.DecodeEncode : Prop :=
  ∀ i : Instr, i.wf = true → decode (encode i) = .ok i

/-- In every context a symbol's decisions are read as that symbol, up to where the next one begins, unless the context
itself raises a failure for that symbol (EmptyWindow for the rep kinds, CheckDist of its own rep for a LONGREP, no byte to
match for a LIT), and then as that failure (30_encoding.md R101, R116, 45_decode_loop.md R289, R290): no context changes
the grammar. That a LIT with no byte to match reads as InsufficientHistoryForRepeat is the model's choice (log entry 14,
DEDUCED): 42_state_machine.md R203 makes the case unreachable and 44_output_window.md R262 says only that it may be so. -/
def Obligations.SymbolReadInEveryContext : Prop :=
  ∀ (c : Context) (y : Symbol) (rest : List Bool), y.wf = true →
    (contextCheck c y = none → (symbolFetch c).read (encodeSymbol y ++ rest) = .ok (y, rest)) ∧
    (∀ k : FailKind, contextCheck c y = some k → (symbolFetch c).read (encodeSymbol y ++ rest) = .error (.failed k))

/-- Only its encoding decodes to a symbol, and only well-formed symbols are decoded (43_length_distance.md R245,
30_encoding.md R107). -/
def Obligations.EncodingIsUnique : Prop :=
  ∀ (bits rest : List Bool) (y : Symbol),
    decodeSymbol bits = .ok (y, rest) → y.wf = true ∧ bits = encodeSymbol y ++ rest

/-- 48 decisions always hold a whole symbol: no prefix and no operand field is illegal (30_encoding.md R103, R115). -/
def Obligations.EveryDecisionSequenceDecodes : Prop :=
  ∀ bits : List Bool, 48 ≤ bits.length → ∃ y rest, decodeSymbol bits = .ok (y, rest)

/-- How many decisions each symbol takes, with `Lf` 4, 5 or 10 for a length field, and `nd` 0 for slots below 4
(30_encoding.md R115). -/
def Obligations.DecisionCounts : Prop :=
  (∀ b : Byte, (encodeSymbol (.lit b)).length = 9) ∧
  (encodeSymbol .shortRep).length = 4 ∧
  (∀ len : Nat, 2 ≤ len → len ≤ 273 →
    ∃ lf : Nat, ((len ≤ 9 ∧ lf = 4) ∨ (10 ≤ len ∧ len ≤ 17 ∧ lf = 5) ∨ (18 ≤ len ∧ lf = 10)) ∧
      (∀ dist : U32, (encodeSymbol (.newMatch len dist)).length =
        2 + lf + 6 + (if distSlot dist.toNat < 4 then 0 else slotNd (distSlot dist.toNat))) ∧
      (encodeSymbol (.eos len)).length = 2 + lf + 6 + 30 ∧
      (encodeSymbol (.longRep0 len)).length = 4 + lf ∧ (encodeSymbol (.longRep1 len)).length = 4 + lf ∧
      (encodeSymbol (.longRep2 len)).length = 5 + lf ∧ (encodeSymbol (.longRep3 len)).length = 5 + lf) ∧
  (∀ y : Symbol, y.wf = true → (encodeSymbol y).length ≤ 48)

/-- Decisions written out from the tables of 30_encoding.md R102, R107, R108, R110 decode to their symbols: 'a'; slot 0;
slot 13 with 5 reverse bits; slot 14 with 2 direct bits and 4 align bits; the end marker; the five rep kinds. -/
def Obligations.SymbolWords : Prop :=
  decode (.decisions [false, false, true, true, false, false, false, false, true]) = .ok (.lit 0x61) ∧
  decode (.decisions ([true, false] ++ [false, false, false, true] ++ [false, false, false, false, false, false])) =
    .ok (.newMatch 3 0) ∧
  decode (.decisions ([true, false] ++ [true, false, true, true, true] ++ [false, false, true, true, false, true] ++
    [true, false, true, true, false])) = .ok (.newMatch 17 0x6D) ∧
  decode (.decisions ([true, false] ++ [true, true, false, false, false, false, false, false, false, false] ++
    [false, false, true, true, true, false] ++ [true, false] ++ [true, false, false, true])) =
    .ok (.newMatch 18 0xA9) ∧
  decode (.decisions ([true, false] ++ [false, false, false, false] ++ [true, true, true, true, true, true] ++
    List.replicate 26 true ++ [true, true, true, true])) = .ok (.eos 2) ∧
  decode (.decisions [true, true, false, false]) = .ok .shortRep ∧
  decode (.decisions [true, true, false, true, false, false, true, true]) = .ok (.longRep0 5) ∧
  decode (.decisions [true, true, true, false, false, false, false, true]) = .ok (.longRep1 3) ∧
  decode (.decisions [true, true, true, true, false, false, false, false, false]) = .ok (.longRep2 2) ∧
  decode (.decisions ([true, true, true, true, true] ++ [true, true] ++ List.replicate 8 true)) =
    .ok (.longRep3 273)

/-- The command codes 1 to 5, and every other code refused with nothing else changed (30_encoding.md R119). -/
def Obligations.CommandCodes : Prop :=
  (∀ (p : Byte) (d : U32) (m : SizeMode),
    decodeCall ⟨1, p, d, m⟩ = .ok (.configure p d m) ∧ decodeCall ⟨2, p, d, m⟩ = .ok .init ∧
      decodeCall ⟨3, p, d, m⟩ = .ok .step ∧ decodeCall ⟨4, p, d, m⟩ = .ok .run ∧
      decodeCall ⟨5, p, d, m⟩ = .ok .finalize) ∧
  (∀ (c : Call) (rest : List Call) (s : State), c.code.toNat = 0 ∨ 6 ≤ c.code.toNat → s.calls = c :: rest →
    step s = .next { s with calls := rest, response := some .refused })

/-! ## Steps -/

/-- A step takes the host's next command and executes it; with no command the core does nothing (60_exceptions.md R363;
the list of commands is the model's, log entry 4). -/
def Obligations.StepRunsNextCommand : Prop :=
  (∀ (s : State) (c : Call) (rest : List Call) (i : Instr), s.calls = c :: rest → decodeCall c = .ok i →
    step s = exec i { s with calls := rest }) ∧
  (∀ s : State, s.calls = [] → step s = .next s)

/-- STEP in Running, with bytes still to produce, executes the symbol that the range decoder reads, at the state the
decoding left (45_decode_loop.md R280, R281). -/
def Obligations.StepRunsFetchedSymbol : Prop :=
  ∀ (s t : State) (y : Symbol), s.status = .running → ¬ (s.bounded = true ∧ s.remaining = 0) →
    fetchSymbol { s with response := some .ok } = .ok y t →
    exec .step s = exec y.toInstr t ∧ ∃ u, exec .step s = .next u

/-- STEP in every status: the failure before INIT; no effect once the loop has ended; Done when the size is reached, with no
input read; else one symbol is decoded and its rule runs, or the decoding fails with the state at that point
(45_decode_loop.md R280). -/
def Obligations.StepInEveryStatus : Prop :=
  (∀ s : State, s.status = .unconfigured ∨ s.status = .configured →
    exec .step s = .next (raiseFail .uninitializedDecoder s)) ∧
  (∀ s : State, s.status = .done ∨ s.status = .verified ∨ s.status = .failed →
    exec .step s = .next { s with response := some .ok }) ∧
  (∀ s : State, s.status = .running → s.bounded = true → s.remaining = 0 →
    exec .step s =
      .next { s with status := .done, doneReason := some .sizeReached, response := some .ok }) ∧
  (∀ (s t : State) (y : Symbol), s.status = .running → ¬ (s.bounded = true ∧ s.remaining = 0) →
    fetchSymbol { s with response := some .ok } = .ok y t → exec .step s = exec y.toInstr t) ∧
  (∀ (s t : State) (k : FailKind), s.status = .running → ¬ (s.bounded = true ∧ s.remaining = 0) →
    fetchSymbol { s with response := some .ok } = .fail k t → exec .step s = .next (raiseFail k t))

/-- On the rep path an empty output fails right after is-rep, with the state is-rep left; with output, whether or not a
MATCH has come before, is-rep-g0 is decoded next, and is-rep0-long after it selects the SHORTREP of `rep0`
(45_decode_loop.md R290). -/
def Obligations.RepPathNeedsOutput : Prop :=
  (∀ s s1 s2 : State, s.produced = 0 →
    decodeBit (.isMatch s.lzmaState (posState s)) s = .ok true s1 →
    decodeBit (.isRep s.lzmaState) s1 = .ok true s2 →
    fetchSymbol s = .fail .emptyWindow s2) ∧
  (∀ s s1 s2 : State, s.produced ≠ 0 →
    decodeBit (.isMatch s.lzmaState (posState s)) s = .ok true s1 →
    decodeBit (.isRep s.lzmaState) s1 = .ok true s2 →
    (∀ (k : FailKind) (t : State), decodeBit (.isRepG0 s.lzmaState) s2 = .fail k t → fetchSymbol s = .fail k t) ∧
    (∀ s3 s4 : State, decodeBit (.isRepG0 s.lzmaState) s2 = .ok false s3 →
      decodeBit (.isRep0Long s.lzmaState (posState s)) s3 = .ok false s4 → fetchSymbol s = .ok .shortRep s4))

/-- RUN fails before INIT; else it is STEP repeated until `status` is not Running: the state it answers is that after some
number of STEPs, all taken in Running, and none once the loop has ended (45_decode_loop.md R295). -/
def Obligations.RunRepeatsStep : Prop :=
  (∀ s : State, s.status = .unconfigured ∨ s.status = .configured →
    exec .run s = .next (raiseFail .uninitializedDecoder s)) ∧
  (∀ s t : State, s.status ≠ .unconfigured → s.status ≠ .configured → exec .run s = .next t →
    ∃ k : Nat, t = stepEffect^[k] { s with response := some .ok } ∧ t.status ≠ .running ∧
      ∀ j, j < k → (stepEffect^[j] { s with response := some .ok }).status = .running)

/-- RUN in Running ends: it answers the state after `k` STEPs, at most `364 * (|inp| - cursor + 1)`, all before the last
taken in Running, and leaves Done or Failed (45_decode_loop.md R295, R296). -/
def Obligations.RunEndsWithinBound : Prop :=
  ∀ s : State, Inv s → s.status = .running →
    ∃ (k : Nat) (t : State), k ≤ 364 * (s.inp.length - s.cursor + 1) ∧
      t = stepEffect^[k] { s with response := some .ok } ∧ exec .run s = .next t ∧
      (t.status = .done ∨ t.status = .failed) ∧
      ∀ j, j < k → (stepEffect^[j] { s with response := some .ok }).status = .running

/-! ## Failures -/

/-- `raise Fail(k)` records the kind, ends the session, returns Fail(k), and changes nothing else (60_exceptions.md
R345). -/
def Obligations.RaiseFailRecordsOnly : Prop :=
  ∀ (k : FailKind) (s : State),
    raiseFail k s = { s with errKind := some k, status := .failed, response := some (.fail k) }

/-- A failed session stays as it is, whatever the host issues: only the list of commands and the outcome returned change
(60_exceptions.md R346). -/
def Obligations.FailedIsForEver : Prop :=
  ∀ s : State, s.status = .failed →
    ∃ t, step s = .next t ∧ t = { s with calls := t.calls, response := t.response } ∧
      (∀ (c : Call) (rest : List Call), s.calls = c :: rest →
        t.response = some (if c.code = 3 ∨ c.code = 4 then .ok else .refused))

/-- A STEP that fails appends nothing and leaves the reps, `state`, `remaining` and the configuration (45_decode_loop.md
R283, R289; 92_eei_decisions.md D20). -/
def Obligations.FailedStepCommitsNothing : Prop :=
  ∀ s t : State, s.status = .running → exec .step s = .next t → t.status = .failed →
    t.out = s.out ∧ t.rep0 = s.rep0 ∧ t.rep1 = s.rep1 ∧ t.rep2 = s.rep2 ∧ t.rep3 = s.rep3 ∧
      t.lzmaState = s.lzmaState ∧ t.remaining = s.remaining ∧ t.lc = s.lc ∧ t.lp = s.lp ∧ t.pb = s.pb ∧
      t.dictionarySize = s.dictionarySize ∧ t.bounded = s.bounded ∧ t.doneReason = s.doneReason

/-- The full table of which command is accepted in which status: a refusal changes nothing but the outcome returned; STEP
and RUN fail before INIT and have no effect after the loop (46_host_commands.md R326). -/
def Obligations.CommandAcceptance : Prop :=
  (∀ (p : Byte) (d : U32) (m : SizeMode) (s : State), s.status ≠ .unconfigured →
    exec (.configure p d m) s = .next { s with response := some .refused }) ∧
  (∀ s : State, s.status ≠ .configured → exec .init s = .next { s with response := some .refused }) ∧
  (∀ s : State, s.status ≠ .done → exec .finalize s = .next { s with response := some .refused }) ∧
  (∀ s : State, s.status = .unconfigured ∨ s.status = .configured →
    exec .step s = .next (raiseFail .uninitializedDecoder s) ∧
      exec .run s = .next (raiseFail .uninitializedDecoder s)) ∧
  (∀ s : State, s.status = .done ∨ s.status = .verified ∨ s.status = .failed →
    exec .step s = .next { s with response := some .ok } ∧ exec .run s = .next { s with response := some .ok })

/-! ## Commands -/

/-- CONFIGURE with legal properties: the parameters with `props = (pb * 5 + lp) * 9 + lc`, every slot 1024, `state` and the
reps 0, Configured; nothing else changes (46_host_commands.md R320, R321). -/
def Obligations.ConfigureCompletes : Prop :=
  ∀ (p : Byte) (d : U32) (m : SizeMode) (s : State), s.status = .unconfigured → p.toNat < 225 →
    ∃ t : State, exec (.configure p d m) s = .next t ∧
      (t.pb.val * 5 + t.lp.val) * 9 + t.lc.val = p.toNat ∧ t.dictionarySize = d ∧
      (∀ n : U64, m = .bounded n → t.bounded = true ∧ t.remaining = n) ∧
      (m = .unbounded → t.bounded = false ∧ t.remaining = 0) ∧
      (∀ slot : Slot, getProb slot t.probs = 1024) ∧ t.lzmaState = 0 ∧
      t.rep0 = 0 ∧ t.rep1 = 0 ∧ t.rep2 = 0 ∧ t.rep3 = 0 ∧
      t.status = .configured ∧ t.response = some .ok ∧
      t.range = s.range ∧ t.code = s.code ∧ t.cursor = s.cursor ∧ t.out = s.out ∧ t.errKind = s.errKind ∧
      t.doneReason = s.doneReason ∧ t.inp = s.inp ∧ t.initCodeCheck = s.initCodeCheck ∧ t.calls = s.calls

/-- CONFIGURE with properties 225..255 fails with InvalidProperties and sets no configuration register; 0..224 are legal
(30_encoding.md R114). -/
def Obligations.ConfigureRejectsProperties : Prop :=
  (∀ (p : Byte) (d : U32) (m : SizeMode) (s : State), s.status = .unconfigured → 225 ≤ p.toNat →
    exec (.configure p d m) s = .next (raiseFail .invalidProperties s)) ∧
  (∀ (p : Byte) (d : U32) (m : SizeMode) (s : State), s.status = .unconfigured → p.toNat ≤ 224 →
    ∃ t : State, exec (.configure p d m) s = .next t ∧ t.status = .configured)

/-- PropsDecode is the inverse of `(pb * 5 + lp) * 9 + lc` on 0..224 (46_host_commands.md R321). -/
def Obligations.PropsDecodeInverts : Prop :=
  (∀ (lc : Fin 9) (lp pb : Fin 5),
    propsDecode (BitVec.ofNat 8 ((pb.val * 5 + lp.val) * 9 + lc.val)) = (lc, lp, pb)) ∧
  (∀ p : Byte, p.toNat ≤ 224 →
    ((propsDecode p).2.2.val * 5 + (propsDecode p).2.1.val) * 9 + (propsDecode p).1.val = p.toNat)

/-- INIT with five bytes: one byte ignored, `code` the next four big-endian, `range` 0xFFFFFFFF, Running; nothing else
changes. With fewer, RangeDecoderInitFailure with nothing read. With P_INIT_CODE_CHECK = reject and code 0xFFFFFFFF,
RangeDecoderInitFailure after the five bytes. Outside Configured INIT is refused (40_range_decoder.md R140,
46_host_commands.md R322). -/
def Obligations.InitReadsFiveBytes : Prop :=
  (∀ (s : State) (b0 b1 b2 b3 b4 : Byte) (rest : List Byte) (c : U32), s.status = .configured →
    s.inp.drop s.cursor = b0 :: b1 :: b2 :: b3 :: b4 :: rest →
    c.toNat = b1.toNat * 2 ^ 24 + b2.toNat * 2 ^ 16 + b3.toNat * 2 ^ 8 + b4.toNat →
    (¬ (s.initCodeCheck = .reject ∧ c = 0xFFFFFFFF) →
      exec .init s = .next { s with range := 0xFFFFFFFF, code := c, cursor := s.cursor + 5, status := .running,
                                    response := some .ok }) ∧
    (s.initCodeCheck = .reject ∧ c = 0xFFFFFFFF →
      exec .init s = .next (raiseFail .rangeDecoderInitFailure
        { s with range := 0xFFFFFFFF, code := c, cursor := s.cursor + 5 }))) ∧
  (∀ s : State, s.status = .configured → s.inp.length < s.cursor + 5 →
    exec .init s = .next (raiseFail .rangeDecoderInitFailure s)) ∧
  (∀ s : State, s.status ≠ .configured → exec .init s = .next { s with response := some .refused })

/-- FINALIZE in Done: Verified with a residual of 0, else RangeDecoderResidualError; outside Done it is refused; nothing
else changes (46_host_commands.md R325). -/
def Obligations.FinalizeChecksResidual : Prop :=
  (∀ s : State, s.status = .done → s.code = 0 →
    exec .finalize s = .next { s with status := .verified, response := some .ok }) ∧
  (∀ s : State, s.status = .done → s.code ≠ 0 →
    exec .finalize s = .next (raiseFail .rangeDecoderResidualError s)) ∧
  (∀ s : State, s.status ≠ .done → exec .finalize s = .next { s with response := some .refused })

/-! ## Symbols -/

/-- LIT appends its byte, moves `state` by the literal transition and counts one byte; nothing else changes
(45_decode_loop.md R282, 42_state_machine.md R191). In bounded mode with `remaining` 0, where no STEP runs LIT
(45_decode_loop.md R280), that `remaining` wraps is the model's choice (log entry 16, DESIGN CHOICE). -/
def Obligations.LitAppendsByte : Prop :=
  ∀ (b : Byte) (s : State) (n : LzmaState),
    n.val = (if s.lzmaState.val < 4 then 0 else if s.lzmaState.val < 10 then s.lzmaState.val - 3
      else s.lzmaState.val - 6) →
    exec (.lit b) s = .next { s with out := s.out ++ [b], lzmaState := n, remaining := remainingAfter 1 s }

/-- A MATCH whose checks pass copies `len` bytes from `dist` back, overlapping copies repeating, shifts the reps, moves
`state` and counts; nothing else changes (45_decode_loop.md R283, 44_output_window.md R265). -/
def Obligations.MatchCompletes : Prop :=
  ∀ (len : Nat) (dist : U32) (s : State), CopyAllowed dist len s →
    ∃ out : Memory, IsCopy dist len s out ∧
      exec (.newMatch len dist) s =
        .next { s with out := out, rep0 := dist, rep1 := s.rep0, rep2 := s.rep1, rep3 := s.rep2,
                       lzmaState := if s.lzmaState.val < 7 then 7 else 10, remaining := remainingAfter len s }

/-- Where a MATCH fails, in order: EmptyWindow, InsufficientHistoryForRepeat, DistanceExceedsDictionary,
UncompressedSizeExceeded; nothing else changes (45_decode_loop.md R283, 44_output_window.md R264). -/
def Obligations.MatchFailures : Prop :=
  ∀ (len : Nat) (dist : U32) (s : State),
    (s.produced = 0 → exec (.newMatch len dist) s = .next (raiseFail .emptyWindow s)) ∧
    (0 < s.produced → s.produced ≤ dist.toNat →
      exec (.newMatch len dist) s = .next (raiseFail .insufficientHistoryForRepeat s)) ∧
    (dist.toNat < s.produced → s.dictionarySize ≤ dist →
      exec (.newMatch len dist) s = .next (raiseFail .distanceExceedsDictionary s)) ∧
    (dist.toNat < s.produced → dist < s.dictionarySize → s.bounded = true → s.remaining.toNat < len →
      exec (.newMatch len dist) s = .next (raiseFail .uncompressedSizeExceeded s))

/-- EOS ends an unbounded stream with EndMarker and fails a bounded one with PrematureEndMarker; whatever its length,
nothing else changes (45_decode_loop.md R284). -/
def Obligations.EosEndsStream : Prop :=
  (∀ (len : Nat) (s : State), s.bounded = false →
    exec (.eos len) s = .next { s with status := .done, doneReason := some .endMarker }) ∧
  (∀ (len : Nat) (s : State), s.bounded = true →
    exec (.eos len) s = .next (raiseFail .prematureEndMarker s))

/-- A SHORTREP whose distance is allowed appends the byte at rep0, moves `state` and counts one byte; nothing else changes
(45_decode_loop.md R285). In bounded mode with `remaining` 0, where no STEP runs SHORTREP (45_decode_loop.md R280), that
`remaining` wraps is the model's choice (log entry 16, DESIGN CHOICE). -/
def Obligations.ShortRepCompletes : Prop :=
  ∀ s : State, s.rep0.toNat < s.produced → s.rep0 < s.dictionarySize →
    ∃ b : Byte, s.out.read (s.produced - s.rep0.toNat - 1) = some b ∧
      exec .shortRep s =
        .next { s with out := s.out ++ [b], lzmaState := if s.lzmaState.val < 7 then 9 else 11,
                       remaining := remainingAfter 1 s }

/-- A LONGREPk whose checks pass copies `len` bytes from rep k, moves rep k to the front, moves `state` and counts; nothing
else changes (45_decode_loop.md R286 to R289, R292). -/
def Obligations.LongRepCompletes : Prop :=
  (∀ (len : Nat) (s : State), CopyAllowed s.rep0 len s →
    ∃ out : Memory, IsCopy s.rep0 len s out ∧
      exec (.longRep0 len) s =
        .next { s with out := out, lzmaState := if s.lzmaState.val < 7 then 8 else 11,
                       remaining := remainingAfter len s }) ∧
  (∀ (len : Nat) (s : State), CopyAllowed s.rep1 len s →
    ∃ out : Memory, IsCopy s.rep1 len s out ∧
      exec (.longRep1 len) s =
        .next { s with out := out, rep0 := s.rep1, rep1 := s.rep0,
                       lzmaState := if s.lzmaState.val < 7 then 8 else 11, remaining := remainingAfter len s }) ∧
  (∀ (len : Nat) (s : State), CopyAllowed s.rep2 len s →
    ∃ out : Memory, IsCopy s.rep2 len s out ∧
      exec (.longRep2 len) s =
        .next { s with out := out, rep0 := s.rep2, rep1 := s.rep0, rep2 := s.rep1,
                       lzmaState := if s.lzmaState.val < 7 then 8 else 11, remaining := remainingAfter len s }) ∧
  (∀ (len : Nat) (s : State), CopyAllowed s.rep3 len s →
    ∃ out : Memory, IsCopy s.rep3 len s out ∧
      exec (.longRep3 len) s =
        .next { s with out := out, rep0 := s.rep3, rep1 := s.rep0, rep2 := s.rep1, rep3 := s.rep2,
                       lzmaState := if s.lzmaState.val < 7 then 8 else 11, remaining := remainingAfter len s })

/-- Where SHORTREP and LONGREPk fail: the failure of CheckDist on their rep, then RepeatLengthExceedsRemaining; nothing else
changes (45_decode_loop.md R285, R289, 44_output_window.md R264). -/
def Obligations.RepFailures : Prop :=
  ∀ (s : State) (d : U32) (i : Instr) (len : Nat),
    (i = .shortRep ∧ d = s.rep0 ∧ len = 1) ∨ (i = .longRep0 len ∧ d = s.rep0) ∨ (i = .longRep1 len ∧ d = s.rep1) ∨
      (i = .longRep2 len ∧ d = s.rep2) ∨ (i = .longRep3 len ∧ d = s.rep3) →
    (s.produced = 0 → exec i s = .next (raiseFail .emptyWindow s)) ∧
    (0 < s.produced → s.produced ≤ d.toNat → exec i s = .next (raiseFail .insufficientHistoryForRepeat s)) ∧
    (d.toNat < s.produced → s.dictionarySize ≤ d → exec i s = .next (raiseFail .distanceExceedsDictionary s)) ∧
    (i ≠ .shortRep → d.toNat < s.produced → d < s.dictionarySize → s.bounded = true → s.remaining.toNat < len →
      exec i s = .next (raiseFail .repeatLengthExceedsRemaining s))

/-- The frame of the storing symbols LIT, MATCH, SHORTREP and LONGREPk: no register of the range decoder, no slot, no
configuration register but `remaining`, no input changes; the control registers change only by a failure; every address
of the window reads as before but the `symbolLen` bytes from `produced` on; the reps that the kind does not write stay
(45_decode_loop.md R282 to R292). -/
def Obligations.StoringSymbolFrame : Prop :=
  ∀ (y : Symbol) (s t : State), (∀ len, y ≠ .eos len) → exec y.toInstr s = .next t →
    t.range = s.range ∧ t.code = s.code ∧ t.cursor = s.cursor ∧ t.probs = s.probs ∧ t.lc = s.lc ∧ t.lp = s.lp ∧
    t.pb = s.pb ∧ t.dictionarySize = s.dictionarySize ∧ t.bounded = s.bounded ∧ t.inp = s.inp ∧
    t.initCodeCheck = s.initCodeCheck ∧ t.calls = s.calls ∧ t.doneReason = s.doneReason ∧
    ((t.status = s.status ∧ t.errKind = s.errKind ∧ t.response = s.response) ∨ ∃ k, t = raiseFail k s) ∧
    (s.bounded = false → t.remaining = s.remaining) ∧
    (∀ a, a < s.produced ∨ s.produced + symbolLen y ≤ a → t.out.read a = s.out.read a) ∧
    ((∃ b, y = .lit b) ∨ y = .shortRep ∨ (∃ len, y = .longRep0 len) →
      t.rep0 = s.rep0 ∧ t.rep1 = s.rep1 ∧ t.rep2 = s.rep2 ∧ t.rep3 = s.rep3) ∧
    ((∃ len, y = .longRep1 len) → t.rep2 = s.rep2 ∧ t.rep3 = s.rep3) ∧
    ((∃ len, y = .longRep2 len) → t.rep3 = s.rep3)

/-- The frame of EOS, which stores nothing: of all the state only `status`, `doneReason`, `errKind` and the outcome
returned can change, and every address reads as before (45_decode_loop.md R284). -/
def Obligations.EosFrame : Prop :=
  ∀ (len : Nat) (s t : State), exec (.eos len) s = .next t →
    t = { s with status := t.status, doneReason := t.doneReason, errKind := t.errKind, response := t.response } ∧
      ∀ a, t.out.read a = s.out.read a

/-- The full transition table of 42_state_machine.md R195, and no EOS or failure moves `state`. -/
def Obligations.TransitionTable : Prop :=
  (List.finRange 12).map updateLiteral = [0, 0, 0, 0, 1, 2, 3, 4, 5, 6, 4, 5] ∧
  (List.finRange 12).map updateMatch = [7, 7, 7, 7, 7, 7, 7, 10, 10, 10, 10, 10] ∧
  (List.finRange 12).map updateRep = [8, 8, 8, 8, 8, 8, 8, 11, 11, 11, 11, 11] ∧
  (List.finRange 12).map updateShortRep = [9, 9, 9, 9, 9, 9, 9, 11, 11, 11, 11, 11] ∧
  (∀ (len : Nat) (s t : State), exec (.eos len) s = .next t → t.lzmaState = s.lzmaState)

/-! ## The output window -/

/-- WinCopy of a distance the window holds appends `n` bytes with period `d + 1` (44_output_window.md R263, R265). -/
def Obligations.WinCopyIsPeriodic : Prop :=
  ∀ (d : U32) (n : Nat) (s : State), d.toNat < s.produced →
    ∃ out : Memory, winCopy d n s.out = some out ∧ IsCopy d n s out

/-- CheckDist: EmptyWindow, then InsufficientHistoryForRepeat, then DistanceExceedsDictionary, else it passes
(44_output_window.md R264). -/
def Obligations.CheckDistOrder : Prop :=
  ∀ (d : U32) (s : State),
    (s.produced = 0 → checkDist d s = some .emptyWindow) ∧
    (0 < s.produced → s.produced ≤ d.toNat → checkDist d s = some .insufficientHistoryForRepeat) ∧
    (d.toNat < s.produced → s.dictionarySize ≤ d → checkDist d s = some .distanceExceedsDictionary) ∧
    (d.toNat < s.produced → d < s.dictionarySize → checkDist d s = none)

/-- The window never shrinks and no byte of it is ever rewritten (20_memory.md R75, 44_output_window.md R268). -/
def Obligations.WindowIsAppendOnly : Prop :=
  ∀ s t : State, step s = .next t → ∃ ext : Memory, t.out = s.out ++ ext

/-! ## The range decoder -/

/-- ReadByte: the byte at the cursor, or RangeDecoderInitFailure at the end of the input with nothing changed
(20_memory.md R70). -/
def Obligations.ReadByteAdvances : Prop :=
  (∀ s : State, s.cursor < s.inp.length →
    ∃ b : Byte, s.inp.read s.cursor = some b ∧ readByte s = .ok b { s with cursor := s.cursor + 1 }) ∧
  (∀ s : State, s.cursor = s.inp.length → readByte s = .fail .rangeDecoderInitFailure s)

/-- Normalize: nothing when `range >= 2^24`; else one byte, `range` shifted without loss and the byte below `code`; the
failure leaves `range` and `code` (40_range_decoder.md R141). -/
def Obligations.NormalizeOneByte : Prop :=
  (∀ s : State, 2 ^ 24 ≤ s.range.toNat → normalize s = .ok () s) ∧
  (∀ (s : State) (b : Byte), s.range.toNat < 2 ^ 24 → s.inp.read s.cursor = some b →
    ∃ t : State, normalize s = .ok () t ∧ t = { s with range := t.range, code := t.code, cursor := s.cursor + 1 } ∧
      t.range.toNat = s.range.toNat * 256 ∧ t.code.toNat = s.code.toNat * 256 % 2 ^ 32 + b.toNat) ∧
  (∀ s : State, s.range.toNat < 2 ^ 24 → s.cursor = s.inp.length →
    normalize s = .fail .rangeDecoderInitFailure s)

/-- DecodeBit in exact arithmetic: with `bound = (range / 2048) * p`, which fits 32 bits and is at most `range`, code below
bound gives 0 and raises the slot by (2048 - p) / 32, else 1 and lowers it by p / 32, with no wrap; then Normalize
(40_range_decoder.md R142, R143). -/
def Obligations.DecodeBitExact : Prop :=
  ∀ (slot : Slot) (s : State) (p bound : Nat), probWf s.probs = true →
    p = (getProb slot s.probs).toNat → bound = s.range.toNat / 2048 * p →
    bound < 2 ^ 32 ∧ bound ≤ s.range.toNat ∧
    (s.code.toNat < bound → ∃ t : State,
      decodeBit slot s = (normalize t).andThen (fun _ u => .ok false u) ∧
      t = { s with range := t.range, probs := t.probs } ∧ t.range.toNat = bound ∧
      (getProb slot t.probs).toNat = p + (2048 - p) / 32 ∧
      ∀ other, other ≠ slot → getProb other t.probs = getProb other s.probs) ∧
    (bound ≤ s.code.toNat → ∃ t : State,
      decodeBit slot s = (normalize t).andThen (fun _ u => .ok true u) ∧
      t = { s with range := t.range, code := t.code, probs := t.probs } ∧
      t.range.toNat = s.range.toNat - bound ∧ t.code.toNat = s.code.toNat - bound ∧
      (getProb slot t.probs).toNat = p - p / 32 ∧
      ∀ other, other ≠ slot → getProb other t.probs = getProb other s.probs)

/-- A slot's value stays in 31..2017, both ends are fixed, and each is reached from 1024 after exactly 127 like decisions
(10_state.md R57). -/
def Obligations.ProbabilityBounds : Prop :=
  (∀ p : Prob, 31 ≤ p.toNat ∧ p.toNat ≤ 2017 →
    (31 ≤ (probUp p).toNat ∧ (probUp p).toNat ≤ 2017) ∧ (31 ≤ (probDown p).toNat ∧ (probDown p).toNat ≤ 2017)) ∧
  probUp 2017 = 2017 ∧ probDown 31 = 31 ∧
  probUp^[127] 1024 = 2017 ∧ probUp^[126] 1024 ≠ 2017 ∧ probDown^[127] 1024 = 31 ∧ probDown^[126] 1024 ≠ 31

/-- One bit of DecodeDirectBits: `range` halved, 1 exactly when `code` is not below it, and then `code` less it; no slot is
written; then Normalize (40_range_decoder.md R145). -/
def Obligations.DirectBitHalves : Prop :=
  ∀ s : State,
    (s.range.toNat / 2 ≤ s.code.toNat → ∃ t : State,
      decodeDirectBit s = (normalize t).andThen (fun _ u => .ok true u) ∧
      t = { s with range := t.range, code := t.code } ∧ t.range.toNat = s.range.toNat / 2 ∧
      t.code.toNat = s.code.toNat - s.range.toNat / 2) ∧
    (s.code.toNat < s.range.toNat / 2 → ∃ t : State,
      decodeDirectBit s = (normalize t).andThen (fun _ u => .ok false u) ∧
      t = { s with range := t.range } ∧ t.range.toNat = s.range.toNat / 2)

/-- Direct bits and forward trees assemble the first decision as the most significant bit, reverse trees as bit 0
(40_range_decoder.md R145, 41_bit_tree.md R170, R171, 20_memory.md R79). -/
def Obligations.BitOrderOfFields : Prop :=
  ∀ (P : Nat → Slot) (n off v : Nat) (rest : List Bool), v < 2 ^ n →
    (directBits n).read (bitsMsb n v ++ rest) = .ok (v, rest) ∧
    (bitTree P n off).read (bitsMsb n v ++ rest) = .ok (v, rest) ∧
    (bitTreeRev P n off).read (bitsLsb n v ++ rest) = .ok (v, rest)

/-- Forward and reverse decodes of one tree visit the same slots for the same decisions, leave one state and give bit
reversals of each other (41_bit_tree.md R173). -/
def Obligations.ForwardAndReverseTreesAgree : Prop :=
  ∀ (P : Nat → Slot) (n off : Nat) (s : State),
    (∀ bits, fetchSlots (bitTree P n off) bits = fetchSlots (bitTreeRev P n off) bits) ∧
    match runFetch (bitTree P n off) s, runFetch (bitTreeRev P n off) s with
    | .ok v t, .ok w u => t = u ∧ v < 2 ^ n ∧ w < 2 ^ n ∧ ∀ i, i < n → w.testBit i = v.testBit (n - 1 - i)
    | .fail k t, .fail k' u => k = k' ∧ t = u
    | _, _ => False

/-- A decision that goes through from `range >= 2^24` and a store in bounds leaves `range >= 2^24` (40_range_decoder.md
R146). -/
def Obligations.RangeStaysNormalized : Prop :=
  ∀ (d : Decision) (s t : State) (b : Bool), ProbsInv s → 2 ^ 24 ≤ s.range.toNat → takeDecision d s = .ok b t →
    2 ^ 24 ≤ t.range.toNat

/-- `code < range` is kept by DecodeBit, and by a direct bit but for one corner: an odd `range` with `code = range - 1`
(40_range_decoder.md R147). -/
def Obligations.CodeStaysBelowRange : Prop :=
  (∀ (slot : Slot) (s t : State) (b : Bool), s.code < s.range → decodeBit slot s = .ok b t → t.code < t.range) ∧
  (∀ (s t : State) (b : Bool), s.code < s.range → decodeDirectBit s = .ok b t →
    ¬ (s.range.toNat % 2 = 1 ∧ s.code.toNat = s.range.toNat - 1) → t.code < t.range) ∧
  (∀ (s : State), s.code < s.range → s.range.toNat % 2 = 1 → s.code.toNat = s.range.toNat - 1 →
    (takeDirect s).2.code = (takeDirect s).2.range)

/-- Once `code` is not below `range`, DecodeBit gives 1 (40_range_decoder.md R150). -/
def Obligations.CodeAboveRangeDecodesOne : Prop :=
  ∀ (slot : Slot) (s t : State) (b : Bool), s.range ≤ s.code → decodeBit slot s = .ok b t → b = true

/-- A symbol that is read takes no more bytes than it has decisions, and never moves the cursor back (20_memory.md R73,
30_encoding.md R115). -/
def Obligations.BytesPerSymbol : Prop :=
  ∀ (s t : State) (y : Symbol), fetchSymbol s = .ok y t →
    y.wf = true ∧ s.cursor ≤ t.cursor ∧ t.cursor ≤ s.cursor + (encodeSymbol y).length

/-- Within one symbol no slot is decoded twice (70_reset_and_hazards.md R386). -/
def Obligations.NoSlotTwiceInASymbol : Prop :=
  ∀ (c : Context) (bits : List Bool), (fetchSlots (symbolFetch c) bits).Nodup

/-- Two stores in the canonical form that read alike are the same list (the model's representation, log entry 10). -/
def Obligations.StoreFormIsCanonical : Prop :=
  ∀ st st' : ProbStore, probWf st = true → probWf st' = true → (∀ n, probAt st n = probAt st' n) → st = st'

/-! ## Whole-machine rules -/

/-- The input and the session's parameters are never written, and the cursor never goes back (20_memory.md R72,
10_state.md R33). -/
def Obligations.InputIsReadOnlyAndForward : Prop :=
  ∀ s t : State, step s = .next t →
    t.inp = s.inp ∧ t.initCodeCheck = s.initCodeCheck ∧ s.cursor ≤ t.cursor

/-- The configuration registers are written once: after CONFIGURE no step changes them (10_state.md R37). -/
def Obligations.ConfigurationIsFixed : Prop :=
  ∀ s t : State, s.status ≠ .unconfigured → step s = .next t →
    t.lc = s.lc ∧ t.lp = s.lp ∧ t.pb = s.pb ∧ t.dictionarySize = s.dictionarySize ∧ t.bounded = s.bounded

/-- How a step moves `status`: never backward in the order of the codes; Verified and Failed are terminal; Done is left only
by FINALIZE, and Verified is entered only from Done by FINALIZE with code 0 (10_state.md R38). -/
def Obligations.StatusOnlyAdvances : Prop :=
  ∀ s t : State, step s = .next t →
    statusCode s.status ≤ statusCode t.status ∧
    (s.status = .verified → t.status = .verified) ∧ (s.status = .failed → t.status = .failed) ∧
    (s.status = .done → t.status ≠ .done → ∃ c rest, s.calls = c :: rest ∧ decodeCall c = .ok .finalize) ∧
    (t.status = .verified → s.status = .verified ∨
      (s.status = .done ∧ s.code = 0 ∧ ∃ c rest, s.calls = c :: rest ∧ decodeCall c = .ok .finalize))

/-- In bounded mode `produced + remaining` is the same after every step from CONFIGURE on (45_decode_loop.md R291). -/
def Obligations.ProducedPlusRemaining : Prop :=
  ∀ s t : State, s.status ≠ .unconfigured → s.bounded = true → step s = .next t →
    t.produced + t.remaining.toNat = s.produced + s.remaining.toNat

/-- Input that is never needed is never read: a command that does not run out of input does the same with any bytes after
the input (20_memory.md R74, 40_range_decoder.md R149). RangeDecoderInitFailure is what running out of input raises; the
second and third case keep the commands that leave that kind without running out: an INIT with its five bytes, which
P_INIT_CODE_CHECK may reject, and every command of a session that has failed before. -/
def Obligations.TrailingInputIsIgnored : Prop :=
  ∀ (i : Instr) (s t : State) (extra : List Byte), exec i s = .next t →
    t.errKind ≠ some .rangeDecoderInitFailure ∨ (i = .init ∧ s.cursor + 5 ≤ s.inp.length) ∨ s.status = .failed →
    exec i { s with inp := s.inp ++ extra } = .next { t with inp := t.inp ++ extra }

/-- Before INIT nothing the host reads depends on `range` and `code`, but for those two themselves in the diagnosis of a
failure (60_exceptions.md R368), and a session that INIT starts does not depend on them at all (10_state.md R64). -/
def Obligations.ResetRangeAndCodeAreHidden : Prop :=
  ∀ (c : Call) (i : Instr) (s t : State) (r x : U32), s.status = .unconfigured ∨ s.status = .configured →
    decodeCall c = .ok i → exec i s = .next t →
    ∃ t' : State, exec i { s with range := r, code := x } = .next t' ∧
      hostView t' = { hostView t with
        diagnosis := (hostView t).diagnosis.map fun d => { d with range := t'.range, code := t'.code } } ∧
      (t.status = .running → t' = t)

/-- What the host reads (10_state.md R41, R43, 46_host_commands.md R328, 60_exceptions.md R364, R368): the control registers
and the output in every status; out of Failed nothing else, so states that agree on those look the same; in Failed also the
values of `cursor`, `range`, `code`, `state`, the reps and the slots at the raise point, which no later step changes. -/
def Obligations.HostReads : Prop :=
  (∀ s : State, (hostView s).status = s.status ∧ (hostView s).errKind = s.errKind ∧
    (hostView s).doneReason = s.doneReason ∧ (hostView s).out = s.out ∧ (hostView s).produced = s.out.length) ∧
  (∀ s s' : State, s.status ≠ .failed → s'.status = s.status → s'.errKind = s.errKind → s'.doneReason = s.doneReason →
    s'.out = s.out → s'.response = s.response → hostView s' = hostView s) ∧
  (∀ (k : FailKind) (s : State), (hostView (raiseFail k s)).diagnosis =
    some ⟨s.cursor, s.range, s.code, s.lzmaState, s.rep0, s.rep1, s.rep2, s.rep3, s.probs⟩) ∧
  (∀ s t : State, s.status = .failed → step s = .next t →
    (hostView s).diagnosis ≠ none ∧ (hostView t).diagnosis = (hostView s).diagnosis ∧ (hostView t).out = (hostView s).out)

/-! ## Which slots a symbol uses -/

/-- The indices at a symbol's start, in exact arithmetic: `posState = produced mod 2^pb`; `litState` the position bits above
the byte bits, with `prevByte` the last byte or 0 for an empty output; plain below state 7, from 7 on matched against the
byte `rep0 + 1` positions back; the rep checks (42_state_machine.md R196, R198, R199, R202, 45_decode_loop.md R289,
R290). That the mode is `unreadable` where `rep0` is not below `produced` is the model's choice (log entry 14, DEDUCED) for a
read that 42_state_machine.md R203 makes unreachable and 44_output_window.md R262 lets be given a failure. -/
def Obligations.ContextOfASymbol : Prop :=
  ∀ s : State,
    (contextOf s).s = s.lzmaState ∧ (contextOf s).ps.val = s.produced % 2 ^ s.pb.val ∧
    (s.produced = 0 → (contextOf s).litState.val = s.produced % 2 ^ s.lp.val * 2 ^ s.lc.val) ∧
    (∀ b : Byte, s.out.getLast? = some b → (contextOf s).litState.val =
      s.produced % 2 ^ s.lp.val * 2 ^ s.lc.val + b.toNat / 2 ^ (8 - s.lc.val)) ∧
    (s.lzmaState.val < 7 → (contextOf s).literalMode = .plain) ∧
    (7 ≤ s.lzmaState.val → ∀ mb : Byte, s.rep0.toNat < s.produced →
      s.out.read (s.produced - s.rep0.toNat - 1) = some mb → (contextOf s).literalMode = .matched mb) ∧
    (7 ≤ s.lzmaState.val → s.produced ≤ s.rep0.toNat → (contextOf s).literalMode = .unreadable) ∧
    ((contextOf s).repPath = if s.produced = 0 then some .emptyWindow else none) ∧
    (contextOf s).rep0 = checkDist s.rep0 s ∧ (contextOf s).rep1 = checkDist s.rep1 s ∧
    (contextOf s).rep2 = checkDist s.rep2 s ∧ (contextOf s).rep3 = checkDist s.rep3 s

/-- Which slots a symbol uses: its decisions ask for exactly those of the tables, in their order, cut short where the context
fails it; when the range decoder reads it, each of them moves by its decision and no other slot changes; and the table of
`nd`, `base` and `specPos` offset of the distance slots 4..13 (42_state_machine.md R198, R200, R201,
43_length_distance.md R230, R240, R243, R244). That a LIT with no byte to match is cut short after is-match is the model's
choice (log entry 14, DEDUCED; 44_output_window.md R262). -/
def Obligations.SlotsOfASymbol : Prop :=
  (∀ (c : Context) (y : Symbol) (rest : List Bool), y.wf = true →
    (fetchSlots (symbolFetch c) (encodeSymbol y ++ rest)) <+: (symbolSlots c y).map Prod.fst ∧
    (contextCheck c y = none →
      fetchSlots (symbolFetch c) (encodeSymbol y ++ rest) = (symbolSlots c y).map Prod.fst)) ∧
  (∀ (s t : State) (y : Symbol), probWf s.probs = true → fetchSymbol s = .ok y t →
    (∀ slot : Slot, slot ∉ (symbolSlots (contextOf s) y).map Prod.fst →
      getProb slot t.probs = getProb slot s.probs) ∧
    (∀ (slot : Slot) (b : Bool), (slot, b) ∈ symbolSlots (contextOf s) y →
      getProb slot t.probs =
        if b then probDown (getProb slot s.probs) else probUp (getProb slot s.probs))) ∧
  ((List.range' 4 10).map fun slot => (slotNd slot, slotBase slot, slotBase slot - slot)) =
    [(1, 4, 0), (1, 6, 1), (2, 8, 2), (2, 12, 5), (3, 16, 8), (3, 24, 15), (4, 32, 22), (4, 48, 37), (5, 64, 52),
     (5, 96, 83)]
end

