-- ==== Sys2Proof/Laws/State.lean ====
section
/-! SUPPORT. One lemma per field per update of State, so that no later proof unfolds an update. -/

namespace Sys2Proof.Machine

/-! ## `raiseFail` -/

@[simp] theorem raiseFail_range (k : FailKind) (s : State) : (raiseFail k s).range = s.range := rfl
@[simp] theorem raiseFail_code (k : FailKind) (s : State) : (raiseFail k s).code = s.code := rfl
@[simp] theorem raiseFail_cursor (k : FailKind) (s : State) : (raiseFail k s).cursor = s.cursor := rfl
@[simp] theorem raiseFail_out (k : FailKind) (s : State) : (raiseFail k s).out = s.out := rfl
@[simp] theorem raiseFail_lzmaState (k : FailKind) (s : State) : (raiseFail k s).lzmaState = s.lzmaState := rfl
@[simp] theorem raiseFail_rep0 (k : FailKind) (s : State) : (raiseFail k s).rep0 = s.rep0 := rfl
@[simp] theorem raiseFail_rep1 (k : FailKind) (s : State) : (raiseFail k s).rep1 = s.rep1 := rfl
@[simp] theorem raiseFail_rep2 (k : FailKind) (s : State) : (raiseFail k s).rep2 = s.rep2 := rfl
@[simp] theorem raiseFail_rep3 (k : FailKind) (s : State) : (raiseFail k s).rep3 = s.rep3 := rfl
@[simp] theorem raiseFail_lc (k : FailKind) (s : State) : (raiseFail k s).lc = s.lc := rfl
@[simp] theorem raiseFail_lp (k : FailKind) (s : State) : (raiseFail k s).lp = s.lp := rfl
@[simp] theorem raiseFail_pb (k : FailKind) (s : State) : (raiseFail k s).pb = s.pb := rfl
@[simp] theorem raiseFail_dictionarySize (k : FailKind) (s : State) : (raiseFail k s).dictionarySize = s.dictionarySize := rfl
@[simp] theorem raiseFail_bounded (k : FailKind) (s : State) : (raiseFail k s).bounded = s.bounded := rfl
@[simp] theorem raiseFail_remaining (k : FailKind) (s : State) : (raiseFail k s).remaining = s.remaining := rfl
@[simp] theorem raiseFail_status (k : FailKind) (s : State) : (raiseFail k s).status = .failed := rfl
@[simp] theorem raiseFail_errKind (k : FailKind) (s : State) : (raiseFail k s).errKind = some k := rfl
@[simp] theorem raiseFail_doneReason (k : FailKind) (s : State) : (raiseFail k s).doneReason = s.doneReason := rfl
@[simp] theorem raiseFail_probs (k : FailKind) (s : State) : (raiseFail k s).probs = s.probs := rfl
@[simp] theorem raiseFail_inp (k : FailKind) (s : State) : (raiseFail k s).inp = s.inp := rfl
@[simp] theorem raiseFail_initCodeCheck (k : FailKind) (s : State) : (raiseFail k s).initCodeCheck = s.initCodeCheck := rfl
@[simp] theorem raiseFail_calls (k : FailKind) (s : State) : (raiseFail k s).calls = s.calls := rfl
@[simp] theorem raiseFail_response (k : FailKind) (s : State) : (raiseFail k s).response = some (.fail k) := rfl

/-! ## `refuse` -/

@[simp] theorem refuse_range (s : State) : (refuse s).range = s.range := rfl
@[simp] theorem refuse_code (s : State) : (refuse s).code = s.code := rfl
@[simp] theorem refuse_cursor (s : State) : (refuse s).cursor = s.cursor := rfl
@[simp] theorem refuse_out (s : State) : (refuse s).out = s.out := rfl
@[simp] theorem refuse_lzmaState (s : State) : (refuse s).lzmaState = s.lzmaState := rfl
@[simp] theorem refuse_rep0 (s : State) : (refuse s).rep0 = s.rep0 := rfl
@[simp] theorem refuse_rep1 (s : State) : (refuse s).rep1 = s.rep1 := rfl
@[simp] theorem refuse_rep2 (s : State) : (refuse s).rep2 = s.rep2 := rfl
@[simp] theorem refuse_rep3 (s : State) : (refuse s).rep3 = s.rep3 := rfl
@[simp] theorem refuse_lc (s : State) : (refuse s).lc = s.lc := rfl
@[simp] theorem refuse_lp (s : State) : (refuse s).lp = s.lp := rfl
@[simp] theorem refuse_pb (s : State) : (refuse s).pb = s.pb := rfl
@[simp] theorem refuse_dictionarySize (s : State) : (refuse s).dictionarySize = s.dictionarySize := rfl
@[simp] theorem refuse_bounded (s : State) : (refuse s).bounded = s.bounded := rfl
@[simp] theorem refuse_remaining (s : State) : (refuse s).remaining = s.remaining := rfl
@[simp] theorem refuse_status (s : State) : (refuse s).status = s.status := rfl
@[simp] theorem refuse_errKind (s : State) : (refuse s).errKind = s.errKind := rfl
@[simp] theorem refuse_doneReason (s : State) : (refuse s).doneReason = s.doneReason := rfl
@[simp] theorem refuse_probs (s : State) : (refuse s).probs = s.probs := rfl
@[simp] theorem refuse_inp (s : State) : (refuse s).inp = s.inp := rfl
@[simp] theorem refuse_initCodeCheck (s : State) : (refuse s).initCodeCheck = s.initCodeCheck := rfl
@[simp] theorem refuse_calls (s : State) : (refuse s).calls = s.calls := rfl
@[simp] theorem refuse_response (s : State) : (refuse s).response = some .refused := rfl

/-! ## `respondOk` -/

@[simp] theorem respondOk_range (s : State) : (respondOk s).range = s.range := rfl
@[simp] theorem respondOk_code (s : State) : (respondOk s).code = s.code := rfl
@[simp] theorem respondOk_cursor (s : State) : (respondOk s).cursor = s.cursor := rfl
@[simp] theorem respondOk_out (s : State) : (respondOk s).out = s.out := rfl
@[simp] theorem respondOk_lzmaState (s : State) : (respondOk s).lzmaState = s.lzmaState := rfl
@[simp] theorem respondOk_rep0 (s : State) : (respondOk s).rep0 = s.rep0 := rfl
@[simp] theorem respondOk_rep1 (s : State) : (respondOk s).rep1 = s.rep1 := rfl
@[simp] theorem respondOk_rep2 (s : State) : (respondOk s).rep2 = s.rep2 := rfl
@[simp] theorem respondOk_rep3 (s : State) : (respondOk s).rep3 = s.rep3 := rfl
@[simp] theorem respondOk_lc (s : State) : (respondOk s).lc = s.lc := rfl
@[simp] theorem respondOk_lp (s : State) : (respondOk s).lp = s.lp := rfl
@[simp] theorem respondOk_pb (s : State) : (respondOk s).pb = s.pb := rfl
@[simp] theorem respondOk_dictionarySize (s : State) : (respondOk s).dictionarySize = s.dictionarySize := rfl
@[simp] theorem respondOk_bounded (s : State) : (respondOk s).bounded = s.bounded := rfl
@[simp] theorem respondOk_remaining (s : State) : (respondOk s).remaining = s.remaining := rfl
@[simp] theorem respondOk_status (s : State) : (respondOk s).status = s.status := rfl
@[simp] theorem respondOk_errKind (s : State) : (respondOk s).errKind = s.errKind := rfl
@[simp] theorem respondOk_doneReason (s : State) : (respondOk s).doneReason = s.doneReason := rfl
@[simp] theorem respondOk_probs (s : State) : (respondOk s).probs = s.probs := rfl
@[simp] theorem respondOk_inp (s : State) : (respondOk s).inp = s.inp := rfl
@[simp] theorem respondOk_initCodeCheck (s : State) : (respondOk s).initCodeCheck = s.initCodeCheck := rfl
@[simp] theorem respondOk_calls (s : State) : (respondOk s).calls = s.calls := rfl
@[simp] theorem respondOk_response (s : State) : (respondOk s).response = some .ok := rfl

/-! ## `reachDone` -/

@[simp] theorem reachDone_range (r : DoneReason) (s : State) : (reachDone r s).range = s.range := rfl
@[simp] theorem reachDone_code (r : DoneReason) (s : State) : (reachDone r s).code = s.code := rfl
@[simp] theorem reachDone_cursor (r : DoneReason) (s : State) : (reachDone r s).cursor = s.cursor := rfl
@[simp] theorem reachDone_out (r : DoneReason) (s : State) : (reachDone r s).out = s.out := rfl
@[simp] theorem reachDone_lzmaState (r : DoneReason) (s : State) : (reachDone r s).lzmaState = s.lzmaState := rfl
@[simp] theorem reachDone_rep0 (r : DoneReason) (s : State) : (reachDone r s).rep0 = s.rep0 := rfl
@[simp] theorem reachDone_rep1 (r : DoneReason) (s : State) : (reachDone r s).rep1 = s.rep1 := rfl
@[simp] theorem reachDone_rep2 (r : DoneReason) (s : State) : (reachDone r s).rep2 = s.rep2 := rfl
@[simp] theorem reachDone_rep3 (r : DoneReason) (s : State) : (reachDone r s).rep3 = s.rep3 := rfl
@[simp] theorem reachDone_lc (r : DoneReason) (s : State) : (reachDone r s).lc = s.lc := rfl
@[simp] theorem reachDone_lp (r : DoneReason) (s : State) : (reachDone r s).lp = s.lp := rfl
@[simp] theorem reachDone_pb (r : DoneReason) (s : State) : (reachDone r s).pb = s.pb := rfl
@[simp] theorem reachDone_dictionarySize (r : DoneReason) (s : State) : (reachDone r s).dictionarySize = s.dictionarySize := rfl
@[simp] theorem reachDone_bounded (r : DoneReason) (s : State) : (reachDone r s).bounded = s.bounded := rfl
@[simp] theorem reachDone_remaining (r : DoneReason) (s : State) : (reachDone r s).remaining = s.remaining := rfl
@[simp] theorem reachDone_status (r : DoneReason) (s : State) : (reachDone r s).status = .done := rfl
@[simp] theorem reachDone_errKind (r : DoneReason) (s : State) : (reachDone r s).errKind = s.errKind := rfl
@[simp] theorem reachDone_doneReason (r : DoneReason) (s : State) : (reachDone r s).doneReason = some r := rfl
@[simp] theorem reachDone_probs (r : DoneReason) (s : State) : (reachDone r s).probs = s.probs := rfl
@[simp] theorem reachDone_inp (r : DoneReason) (s : State) : (reachDone r s).inp = s.inp := rfl
@[simp] theorem reachDone_initCodeCheck (r : DoneReason) (s : State) : (reachDone r s).initCodeCheck = s.initCodeCheck := rfl
@[simp] theorem reachDone_calls (r : DoneReason) (s : State) : (reachDone r s).calls = s.calls := rfl
@[simp] theorem reachDone_response (r : DoneReason) (s : State) : (reachDone r s).response = s.response := rfl

/-! ## `pushRep` -/

@[simp] theorem pushRep_range (d : U32) (s : State) : (pushRep d s).range = s.range := rfl
@[simp] theorem pushRep_code (d : U32) (s : State) : (pushRep d s).code = s.code := rfl
@[simp] theorem pushRep_cursor (d : U32) (s : State) : (pushRep d s).cursor = s.cursor := rfl
@[simp] theorem pushRep_out (d : U32) (s : State) : (pushRep d s).out = s.out := rfl
@[simp] theorem pushRep_lzmaState (d : U32) (s : State) : (pushRep d s).lzmaState = s.lzmaState := rfl
@[simp] theorem pushRep_rep0 (d : U32) (s : State) : (pushRep d s).rep0 = d := rfl
@[simp] theorem pushRep_rep1 (d : U32) (s : State) : (pushRep d s).rep1 = s.rep0 := rfl
@[simp] theorem pushRep_rep2 (d : U32) (s : State) : (pushRep d s).rep2 = s.rep1 := rfl
@[simp] theorem pushRep_rep3 (d : U32) (s : State) : (pushRep d s).rep3 = s.rep2 := rfl
@[simp] theorem pushRep_lc (d : U32) (s : State) : (pushRep d s).lc = s.lc := rfl
@[simp] theorem pushRep_lp (d : U32) (s : State) : (pushRep d s).lp = s.lp := rfl
@[simp] theorem pushRep_pb (d : U32) (s : State) : (pushRep d s).pb = s.pb := rfl
@[simp] theorem pushRep_dictionarySize (d : U32) (s : State) : (pushRep d s).dictionarySize = s.dictionarySize := rfl
@[simp] theorem pushRep_bounded (d : U32) (s : State) : (pushRep d s).bounded = s.bounded := rfl
@[simp] theorem pushRep_remaining (d : U32) (s : State) : (pushRep d s).remaining = s.remaining := rfl
@[simp] theorem pushRep_status (d : U32) (s : State) : (pushRep d s).status = s.status := rfl
@[simp] theorem pushRep_errKind (d : U32) (s : State) : (pushRep d s).errKind = s.errKind := rfl
@[simp] theorem pushRep_doneReason (d : U32) (s : State) : (pushRep d s).doneReason = s.doneReason := rfl
@[simp] theorem pushRep_probs (d : U32) (s : State) : (pushRep d s).probs = s.probs := rfl
@[simp] theorem pushRep_inp (d : U32) (s : State) : (pushRep d s).inp = s.inp := rfl
@[simp] theorem pushRep_initCodeCheck (d : U32) (s : State) : (pushRep d s).initCodeCheck = s.initCodeCheck := rfl
@[simp] theorem pushRep_calls (d : U32) (s : State) : (pushRep d s).calls = s.calls := rfl
@[simp] theorem pushRep_response (d : U32) (s : State) : (pushRep d s).response = s.response := rfl

/-! ## `takeZero` -/

@[simp] theorem takeZero_range (i : Slot) (s : State) : (takeZero i s).range = boundOf i s := rfl
@[simp] theorem takeZero_code (i : Slot) (s : State) : (takeZero i s).code = s.code := rfl
@[simp] theorem takeZero_cursor (i : Slot) (s : State) : (takeZero i s).cursor = s.cursor := rfl
@[simp] theorem takeZero_out (i : Slot) (s : State) : (takeZero i s).out = s.out := rfl
@[simp] theorem takeZero_lzmaState (i : Slot) (s : State) : (takeZero i s).lzmaState = s.lzmaState := rfl
@[simp] theorem takeZero_rep0 (i : Slot) (s : State) : (takeZero i s).rep0 = s.rep0 := rfl
@[simp] theorem takeZero_rep1 (i : Slot) (s : State) : (takeZero i s).rep1 = s.rep1 := rfl
@[simp] theorem takeZero_rep2 (i : Slot) (s : State) : (takeZero i s).rep2 = s.rep2 := rfl
@[simp] theorem takeZero_rep3 (i : Slot) (s : State) : (takeZero i s).rep3 = s.rep3 := rfl
@[simp] theorem takeZero_lc (i : Slot) (s : State) : (takeZero i s).lc = s.lc := rfl
@[simp] theorem takeZero_lp (i : Slot) (s : State) : (takeZero i s).lp = s.lp := rfl
@[simp] theorem takeZero_pb (i : Slot) (s : State) : (takeZero i s).pb = s.pb := rfl
@[simp] theorem takeZero_dictionarySize (i : Slot) (s : State) : (takeZero i s).dictionarySize = s.dictionarySize := rfl
@[simp] theorem takeZero_bounded (i : Slot) (s : State) : (takeZero i s).bounded = s.bounded := rfl
@[simp] theorem takeZero_remaining (i : Slot) (s : State) : (takeZero i s).remaining = s.remaining := rfl
@[simp] theorem takeZero_status (i : Slot) (s : State) : (takeZero i s).status = s.status := rfl
@[simp] theorem takeZero_errKind (i : Slot) (s : State) : (takeZero i s).errKind = s.errKind := rfl
@[simp] theorem takeZero_doneReason (i : Slot) (s : State) : (takeZero i s).doneReason = s.doneReason := rfl
@[simp] theorem takeZero_probs (i : Slot) (s : State) : (takeZero i s).probs = setProb i (probUp (getProb i s.probs)) s.probs := rfl
@[simp] theorem takeZero_inp (i : Slot) (s : State) : (takeZero i s).inp = s.inp := rfl
@[simp] theorem takeZero_initCodeCheck (i : Slot) (s : State) : (takeZero i s).initCodeCheck = s.initCodeCheck := rfl
@[simp] theorem takeZero_calls (i : Slot) (s : State) : (takeZero i s).calls = s.calls := rfl
@[simp] theorem takeZero_response (i : Slot) (s : State) : (takeZero i s).response = s.response := rfl

/-! ## `takeOne` -/

@[simp] theorem takeOne_range (i : Slot) (s : State) : (takeOne i s).range = s.range - boundOf i s := rfl
@[simp] theorem takeOne_code (i : Slot) (s : State) : (takeOne i s).code = s.code - boundOf i s := rfl
@[simp] theorem takeOne_cursor (i : Slot) (s : State) : (takeOne i s).cursor = s.cursor := rfl
@[simp] theorem takeOne_out (i : Slot) (s : State) : (takeOne i s).out = s.out := rfl
@[simp] theorem takeOne_lzmaState (i : Slot) (s : State) : (takeOne i s).lzmaState = s.lzmaState := rfl
@[simp] theorem takeOne_rep0 (i : Slot) (s : State) : (takeOne i s).rep0 = s.rep0 := rfl
@[simp] theorem takeOne_rep1 (i : Slot) (s : State) : (takeOne i s).rep1 = s.rep1 := rfl
@[simp] theorem takeOne_rep2 (i : Slot) (s : State) : (takeOne i s).rep2 = s.rep2 := rfl
@[simp] theorem takeOne_rep3 (i : Slot) (s : State) : (takeOne i s).rep3 = s.rep3 := rfl
@[simp] theorem takeOne_lc (i : Slot) (s : State) : (takeOne i s).lc = s.lc := rfl
@[simp] theorem takeOne_lp (i : Slot) (s : State) : (takeOne i s).lp = s.lp := rfl
@[simp] theorem takeOne_pb (i : Slot) (s : State) : (takeOne i s).pb = s.pb := rfl
@[simp] theorem takeOne_dictionarySize (i : Slot) (s : State) : (takeOne i s).dictionarySize = s.dictionarySize := rfl
@[simp] theorem takeOne_bounded (i : Slot) (s : State) : (takeOne i s).bounded = s.bounded := rfl
@[simp] theorem takeOne_remaining (i : Slot) (s : State) : (takeOne i s).remaining = s.remaining := rfl
@[simp] theorem takeOne_status (i : Slot) (s : State) : (takeOne i s).status = s.status := rfl
@[simp] theorem takeOne_errKind (i : Slot) (s : State) : (takeOne i s).errKind = s.errKind := rfl
@[simp] theorem takeOne_doneReason (i : Slot) (s : State) : (takeOne i s).doneReason = s.doneReason := rfl
@[simp] theorem takeOne_probs (i : Slot) (s : State) : (takeOne i s).probs = setProb i (probDown (getProb i s.probs)) s.probs := rfl
@[simp] theorem takeOne_inp (i : Slot) (s : State) : (takeOne i s).inp = s.inp := rfl
@[simp] theorem takeOne_initCodeCheck (i : Slot) (s : State) : (takeOne i s).initCodeCheck = s.initCodeCheck := rfl
@[simp] theorem takeOne_calls (i : Slot) (s : State) : (takeOne i s).calls = s.calls := rfl
@[simp] theorem takeOne_response (i : Slot) (s : State) : (takeOne i s).response = s.response := rfl

/-! ## `countDown` -/

@[simp] theorem countDown_range (n : Nat) (s : State) : (countDown n s).range = s.range := by
  unfold countDown; split <;> rfl
@[simp] theorem countDown_code (n : Nat) (s : State) : (countDown n s).code = s.code := by
  unfold countDown; split <;> rfl
@[simp] theorem countDown_cursor (n : Nat) (s : State) : (countDown n s).cursor = s.cursor := by
  unfold countDown; split <;> rfl
@[simp] theorem countDown_out (n : Nat) (s : State) : (countDown n s).out = s.out := by
  unfold countDown; split <;> rfl
@[simp] theorem countDown_lzmaState (n : Nat) (s : State) : (countDown n s).lzmaState = s.lzmaState := by
  unfold countDown; split <;> rfl
@[simp] theorem countDown_rep0 (n : Nat) (s : State) : (countDown n s).rep0 = s.rep0 := by
  unfold countDown; split <;> rfl
@[simp] theorem countDown_rep1 (n : Nat) (s : State) : (countDown n s).rep1 = s.rep1 := by
  unfold countDown; split <;> rfl
@[simp] theorem countDown_rep2 (n : Nat) (s : State) : (countDown n s).rep2 = s.rep2 := by
  unfold countDown; split <;> rfl
@[simp] theorem countDown_rep3 (n : Nat) (s : State) : (countDown n s).rep3 = s.rep3 := by
  unfold countDown; split <;> rfl
@[simp] theorem countDown_lc (n : Nat) (s : State) : (countDown n s).lc = s.lc := by
  unfold countDown; split <;> rfl
@[simp] theorem countDown_lp (n : Nat) (s : State) : (countDown n s).lp = s.lp := by
  unfold countDown; split <;> rfl
@[simp] theorem countDown_pb (n : Nat) (s : State) : (countDown n s).pb = s.pb := by
  unfold countDown; split <;> rfl
@[simp] theorem countDown_dictionarySize (n : Nat) (s : State) : (countDown n s).dictionarySize = s.dictionarySize := by
  unfold countDown; split <;> rfl
@[simp] theorem countDown_bounded (n : Nat) (s : State) : (countDown n s).bounded = s.bounded := by
  unfold countDown; split <;> rfl
@[simp] theorem countDown_remaining (n : Nat) (s : State) :
    (countDown n s).remaining = if s.bounded then s.remaining - BitVec.ofNat 64 n else s.remaining := by
  unfold countDown; split <;> rfl
@[simp] theorem countDown_status (n : Nat) (s : State) : (countDown n s).status = s.status := by
  unfold countDown; split <;> rfl
@[simp] theorem countDown_errKind (n : Nat) (s : State) : (countDown n s).errKind = s.errKind := by
  unfold countDown; split <;> rfl
@[simp] theorem countDown_doneReason (n : Nat) (s : State) : (countDown n s).doneReason = s.doneReason := by
  unfold countDown; split <;> rfl
@[simp] theorem countDown_probs (n : Nat) (s : State) : (countDown n s).probs = s.probs := by
  unfold countDown; split <;> rfl
@[simp] theorem countDown_inp (n : Nat) (s : State) : (countDown n s).inp = s.inp := by
  unfold countDown; split <;> rfl
@[simp] theorem countDown_initCodeCheck (n : Nat) (s : State) : (countDown n s).initCodeCheck = s.initCodeCheck := by
  unfold countDown; split <;> rfl
@[simp] theorem countDown_calls (n : Nat) (s : State) : (countDown n s).calls = s.calls := by
  unfold countDown; split <;> rfl
@[simp] theorem countDown_response (n : Nat) (s : State) : (countDown n s).response = s.response := by
  unfold countDown; split <;> rfl

/-! ## `promoteRep`: what it leaves alone -/

@[simp] theorem promoteRep_range (k : Fin 4) (s : State) : (promoteRep k s).range = s.range := by
  unfold promoteRep; split <;> rfl
@[simp] theorem promoteRep_code (k : Fin 4) (s : State) : (promoteRep k s).code = s.code := by
  unfold promoteRep; split <;> rfl
@[simp] theorem promoteRep_cursor (k : Fin 4) (s : State) : (promoteRep k s).cursor = s.cursor := by
  unfold promoteRep; split <;> rfl
@[simp] theorem promoteRep_out (k : Fin 4) (s : State) : (promoteRep k s).out = s.out := by
  unfold promoteRep; split <;> rfl
@[simp] theorem promoteRep_lzmaState (k : Fin 4) (s : State) : (promoteRep k s).lzmaState = s.lzmaState := by
  unfold promoteRep; split <;> rfl
@[simp] theorem promoteRep_lc (k : Fin 4) (s : State) : (promoteRep k s).lc = s.lc := by
  unfold promoteRep; split <;> rfl
@[simp] theorem promoteRep_lp (k : Fin 4) (s : State) : (promoteRep k s).lp = s.lp := by
  unfold promoteRep; split <;> rfl
@[simp] theorem promoteRep_pb (k : Fin 4) (s : State) : (promoteRep k s).pb = s.pb := by
  unfold promoteRep; split <;> rfl
@[simp] theorem promoteRep_dictionarySize (k : Fin 4) (s : State) : (promoteRep k s).dictionarySize = s.dictionarySize := by
  unfold promoteRep; split <;> rfl
@[simp] theorem promoteRep_bounded (k : Fin 4) (s : State) : (promoteRep k s).bounded = s.bounded := by
  unfold promoteRep; split <;> rfl
@[simp] theorem promoteRep_remaining (k : Fin 4) (s : State) : (promoteRep k s).remaining = s.remaining := by
  unfold promoteRep; split <;> rfl
@[simp] theorem promoteRep_status (k : Fin 4) (s : State) : (promoteRep k s).status = s.status := by
  unfold promoteRep; split <;> rfl
@[simp] theorem promoteRep_errKind (k : Fin 4) (s : State) : (promoteRep k s).errKind = s.errKind := by
  unfold promoteRep; split <;> rfl
@[simp] theorem promoteRep_doneReason (k : Fin 4) (s : State) : (promoteRep k s).doneReason = s.doneReason := by
  unfold promoteRep; split <;> rfl
@[simp] theorem promoteRep_probs (k : Fin 4) (s : State) : (promoteRep k s).probs = s.probs := by
  unfold promoteRep; split <;> rfl
@[simp] theorem promoteRep_inp (k : Fin 4) (s : State) : (promoteRep k s).inp = s.inp := by
  unfold promoteRep; split <;> rfl
@[simp] theorem promoteRep_initCodeCheck (k : Fin 4) (s : State) : (promoteRep k s).initCodeCheck = s.initCodeCheck := by
  unfold promoteRep; split <;> rfl
@[simp] theorem promoteRep_calls (k : Fin 4) (s : State) : (promoteRep k s).calls = s.calls := by
  unfold promoteRep; split <;> rfl
@[simp] theorem promoteRep_response (k : Fin 4) (s : State) : (promoteRep k s).response = s.response := by
  unfold promoteRep; split <;> rfl

/-! ## `takeDirect`: what it leaves alone -/

@[simp] theorem takeDirect_cursor (s : State) : (takeDirect s).2.cursor = s.cursor := by
  unfold takeDirect; split <;> rfl
@[simp] theorem takeDirect_out (s : State) : (takeDirect s).2.out = s.out := by
  unfold takeDirect; split <;> rfl
@[simp] theorem takeDirect_lzmaState (s : State) : (takeDirect s).2.lzmaState = s.lzmaState := by
  unfold takeDirect; split <;> rfl
@[simp] theorem takeDirect_rep0 (s : State) : (takeDirect s).2.rep0 = s.rep0 := by
  unfold takeDirect; split <;> rfl
@[simp] theorem takeDirect_rep1 (s : State) : (takeDirect s).2.rep1 = s.rep1 := by
  unfold takeDirect; split <;> rfl
@[simp] theorem takeDirect_rep2 (s : State) : (takeDirect s).2.rep2 = s.rep2 := by
  unfold takeDirect; split <;> rfl
@[simp] theorem takeDirect_rep3 (s : State) : (takeDirect s).2.rep3 = s.rep3 := by
  unfold takeDirect; split <;> rfl
@[simp] theorem takeDirect_lc (s : State) : (takeDirect s).2.lc = s.lc := by
  unfold takeDirect; split <;> rfl
@[simp] theorem takeDirect_lp (s : State) : (takeDirect s).2.lp = s.lp := by
  unfold takeDirect; split <;> rfl
@[simp] theorem takeDirect_pb (s : State) : (takeDirect s).2.pb = s.pb := by
  unfold takeDirect; split <;> rfl
@[simp] theorem takeDirect_dictionarySize (s : State) : (takeDirect s).2.dictionarySize = s.dictionarySize := by
  unfold takeDirect; split <;> rfl
@[simp] theorem takeDirect_bounded (s : State) : (takeDirect s).2.bounded = s.bounded := by
  unfold takeDirect; split <;> rfl
@[simp] theorem takeDirect_remaining (s : State) : (takeDirect s).2.remaining = s.remaining := by
  unfold takeDirect; split <;> rfl
@[simp] theorem takeDirect_status (s : State) : (takeDirect s).2.status = s.status := by
  unfold takeDirect; split <;> rfl
@[simp] theorem takeDirect_errKind (s : State) : (takeDirect s).2.errKind = s.errKind := by
  unfold takeDirect; split <;> rfl
@[simp] theorem takeDirect_doneReason (s : State) : (takeDirect s).2.doneReason = s.doneReason := by
  unfold takeDirect; split <;> rfl
@[simp] theorem takeDirect_probs (s : State) : (takeDirect s).2.probs = s.probs := by
  unfold takeDirect; split <;> rfl
@[simp] theorem takeDirect_inp (s : State) : (takeDirect s).2.inp = s.inp := by
  unfold takeDirect; split <;> rfl
@[simp] theorem takeDirect_initCodeCheck (s : State) : (takeDirect s).2.initCodeCheck = s.initCodeCheck := by
  unfold takeDirect; split <;> rfl
@[simp] theorem takeDirect_calls (s : State) : (takeDirect s).2.calls = s.calls := by
  unfold takeDirect; split <;> rfl
@[simp] theorem takeDirect_response (s : State) : (takeDirect s).2.response = s.response := by
  unfold takeDirect; split <;> rfl
@[simp] theorem takeDirect_range (s : State) : (takeDirect s).2.range = s.range >>> 1 := by
  unfold takeDirect; split <;> rfl

/-! ## Updates of the whole -/

/-- The state is unchanged when `promoteRep` moves `rep0`. -/
@[simp] theorem promoteRep_zero (s : State) : promoteRep 0 s = s := rfl

/-- In unbounded mode nothing is counted. -/
theorem countDown_of_unbounded {s : State} (h : s.bounded = false) (n : Nat) : countDown n s = s := by
  simp [countDown, h]

end Sys2Proof.Machine
end

