-- ==== Sys2Proof/Laws/Ops.lean ====
section
/-! SUPPORT. What the operations over memories, results and failures can do, once each. -/

namespace Sys2Proof.Machine

/-! ## Results -/

@[simp] theorem Res.andThen_ok {α β : Type} (a : α) (s : State) (f : α → State → Res β) :
    (Res.ok a s).andThen f = f a s := rfl

@[simp] theorem Res.andThen_fail {α β : Type} (k : FailKind) (s : State) (f : α → State → Res β) :
    (Res.fail k s : Res α).andThen f = .fail k s := rfl

@[simp] theorem Res.settle_ok (s : State) : (Res.ok () s).settle = s := rfl

@[simp] theorem Res.settle_fail (k : FailKind) (s : State) : (Res.fail k s).settle = raiseFail k s := rfl

/-- A sequence goes through only if both parts do. -/
theorem Res.andThen_eq_ok {α β : Type} {r : Res α} {f : α → State → Res β} {b : β} {t : State} :
    r.andThen f = .ok b t ↔ ∃ a s, r = .ok a s ∧ f a s = .ok b t := by
  cases r with
  | ok a s => simp
  | fail k s => simp

/-- A sequence fails where its first failing part does. -/
theorem Res.andThen_eq_fail {α β : Type} {r : Res α} {f : α → State → Res β} {k : FailKind} {t : State} :
    r.andThen f = .fail k t ↔ r = .fail k t ∨ ∃ a s, r = .ok a s ∧ f a s = .fail k t := by
  cases r with
  | ok a s => simp
  | fail k s => simp

@[simp] theorem failIf_none (s : State) : failIf none s = .ok () s := rfl

@[simp] theorem failIf_some (k : FailKind) (s : State) : failIf (some k) s = .fail k s := rfl

/-! ## Memories -/

theorem Memory.cellsFrom_fst (m : Memory) (a : Nat) :
    (Memory.cellsFrom a m).map Prod.fst = List.range' a m.length := by
  induction m generalizing a with
  | nil => rfl
  | cons b m ih => simp only [Memory.cellsFrom, List.map_cons, ih, List.length_cons, List.range'_succ]

/-- Every memory has the canonical form, so every operation keeps it. -/
theorem Memory.wf_all (m : Memory) : m.wf = true := by
  simp [Memory.wf, Memory.cells, Memory.cellsFrom_fst, List.range_eq_range']

/-- An address exists exactly below the length (20_memory.md R82). -/
theorem Memory.read_eq_none {m : Memory} {a : Nat} : m.read a = none ↔ m.length ≤ a := by
  simp [Memory.read]

/-- Appending writes no address below the length (20_memory.md R75). -/
theorem Memory.read_append_left {m : Memory} (ext : Memory) {a : Nat} (h : a < m.length) :
    Memory.read (m ++ ext) a = m.read a := by
  simp only [Memory.read]
  exact List.getElem?_append_left h

/-! ## The input port -/

/-- What ReadByte can do (20_memory.md R70). -/
theorem readByte_cases (s : State) :
    (s.inp.length ≤ s.cursor ∧ readByte s = .fail .rangeDecoderInitFailure s) ∨
      (∃ b, s.cursor < s.inp.length ∧ s.inp.read s.cursor = some b ∧
        readByte s = .ok b { s with cursor := s.cursor + 1 }) := by
  unfold readByte
  cases h : s.inp.read s.cursor with
  | none => exact .inl ⟨Memory.read_eq_none.mp h, rfl⟩
  | some b =>
    refine .inr ⟨b, ?_, rfl, rfl⟩
    rcases Nat.lt_or_ge s.cursor s.inp.length with hlt | hge
    · exact hlt
    · rw [Memory.read_eq_none.mpr hge] at h; cases h

/-! ## The output window -/

/-- WinGet reads the byte `d + 1` back, and nothing else (44_output_window.md R262). -/
theorem winGet_eq_some {d : U32} {out : Memory} {b : Byte} :
    winGet d out = some b ↔ d.toNat < out.length ∧ out.read (out.length - d.toNat - 1) = some b := by
  unfold winGet
  split <;> simp_all

/-- WinGet answers for every distance the window holds (44_output_window.md R262). -/
theorem winGet_isSome {d : U32} {out : Memory} (h : d.toNat < out.length) : ∃ b, winGet d out = some b := by
  have hlt : out.length - d.toNat - 1 < out.length := by omega
  exact ⟨out[out.length - d.toNat - 1], winGet_eq_some.mpr ⟨h, by simp [Memory.read, hlt]⟩⟩

/-- WinCopy appends `n` bytes and writes nothing else (44_output_window.md R263). -/
theorem winCopy_append {d : U32} {n : Nat} {out out' : Memory} (h : winCopy d n out = some out') :
    ∃ ext : Memory, ext.length = n ∧ out' = out ++ ext := by
  induction n generalizing out with
  | zero => exact ⟨[], rfl, by simpa [winCopy] using h.symm⟩
  | succ n ih =>
    simp only [winCopy] at h
    split at h
    · cases h
    · next b _ =>
      obtain ⟨ext, hlen, rfl⟩ := ih h
      exact ⟨b :: ext, by simp [hlen], by simp [winPut]⟩

/-- WinCopy goes through for every distance the window holds (44_output_window.md R263). -/
theorem winCopy_isSome {d : U32} (n : Nat) {out : Memory} (h : d.toNat < out.length) :
    ∃ out', winCopy d n out = some out' := by
  induction n generalizing out with
  | zero => exact ⟨out, rfl⟩
  | succ n ih =>
    obtain ⟨b, hb⟩ := winGet_isSome h
    simp only [winCopy, hb]
    exact ih (by simp only [winPut, List.length_append]; omega)

/-- What CheckDist can answer (44_output_window.md R264). -/
theorem checkDist_cases (d : U32) (s : State) :
    (s.out = [] ∧ checkDist d s = some .emptyWindow) ∨
    (s.out ≠ [] ∧ s.produced ≤ d.toNat ∧ checkDist d s = some .insufficientHistoryForRepeat) ∨
    (d.toNat < s.produced ∧ s.dictionarySize ≤ d ∧ checkDist d s = some .distanceExceedsDictionary) ∨
    (d.toNat < s.produced ∧ d < s.dictionarySize ∧ checkDist d s = none) := by
  unfold checkDist
  split
  · next h => exact .inl ⟨List.length_eq_zero_iff.mp h, rfl⟩
  · next h =>
    have hne : s.out ≠ [] := fun he => h (by simp [State.produced, he])
    split
    · next h2 => exact .inr (.inl ⟨hne, h2, rfl⟩)
    · next h2 =>
      split
      · next h3 => exact .inr (.inr (.inl ⟨by omega, h3, rfl⟩))
      · next h3 => exact .inr (.inr (.inr ⟨by omega, BitVec.not_le.mp h3, rfl⟩))

/-- CheckDist passes exactly for a distance within the output and the dictionary (44_output_window.md R264). -/
theorem checkDist_eq_none {d : U32} {s : State} :
    checkDist d s = none ↔ d.toNat < s.produced ∧ d < s.dictionarySize := by
  rcases checkDist_cases d s with ⟨h, hc⟩ | ⟨_, h, hc⟩ | ⟨h, h', hc⟩ | ⟨h, h', hc⟩
  · simp [hc, State.produced, h]
  · simp only [hc, reduceCtorEq, false_iff, not_and]; intro; omega
  · simp only [hc, reduceCtorEq, false_iff, not_and]; intro _ hlt; exact absurd h' (BitVec.not_le.mpr hlt)
  · simp [hc, h, h']

/-- A copy whose distance has passed CheckDist goes through, and appends `n` bytes (44_output_window.md R263). -/
theorem copyToWindow_ok {d : U32} (n : Nat) {s : State} (h : d.toNat < s.produced) :
    ∃ out ext, winCopy d n s.out = some out ∧ out = s.out ++ ext ∧ ext.length = n ∧
      copyToWindow d n s = .ok () { s with out := out } := by
  obtain ⟨out, hout⟩ := winCopy_isSome n h
  obtain ⟨ext, hlen, hext⟩ := winCopy_append hout
  exact ⟨out, ext, hout, hext, hlen, by simp [copyToWindow, hout]⟩

end Sys2Proof.Machine
end

