-- ==== Sys2Proof/Laws/Probs.lean ====
section
/-! SUPPORT. The probability store: reads after writes, the canonical form, and the numbering of the slots. -/

namespace Sys2Proof.Machine

/-! ## The canonical form -/

theorem probWfFrom_mono {st : ProbStore} {lo lo' : Nat} (h : probWfFrom lo st = true) (hle : lo' ≤ lo) :
    probWfFrom lo' st = true := by
  cases st with
  | nil => rfl
  | cons e st =>
    simp only [probWfFrom, Bool.and_eq_true, decide_eq_true_eq] at h ⊢
    exact ⟨⟨by omega, h.1.2⟩, h.2⟩

theorem probWfFrom_probCons {st : ProbStore} {lo n : Nat} (p : Prob) (h : probWfFrom (n + 1) st = true)
    (hn : lo ≤ n) : probWfFrom lo (probCons n p st) = true := by
  unfold probCons
  split
  · exact probWfFrom_mono h (by omega)
  · simp_all [probWfFrom]

theorem probWfFrom_probPut {lo n : Nat} (p : Prob) (st : ProbStore) (h : probWfFrom lo st = true)
    (hn : lo ≤ n) : probWfFrom lo (probPut n p st) = true := by
  induction st generalizing lo with
  | nil => exact probWfFrom_probCons p rfl hn
  | cons e st ih =>
    obtain ⟨a, v⟩ := e
    simp only [probWfFrom, Bool.and_eq_true, decide_eq_true_eq] at h
    simp only [probPut]
    split
    · next heq => exact probWfFrom_probCons p (by rw [heq]; exact h.2) hn
    · split
      · next hlt =>
        refine probWfFrom_probCons p ?_ hn
        simp only [probWfFrom, Bool.and_eq_true, decide_eq_true_eq]
        exact ⟨⟨hlt, h.1.2⟩, h.2⟩
      · simp only [probWfFrom, Bool.and_eq_true, decide_eq_true_eq]
        exact ⟨h.1, ih h.2 (by omega)⟩

/-- Writing a slot keeps the canonical form. -/
theorem probWf_setProb (slot : Slot) (p : Prob) {st : ProbStore} (h : probWf st = true) :
    probWf (setProb slot p st) = true :=
  probWfFrom_probPut p st h (Nat.zero_le _)

/-! ## Reads after writes -/

/-- Below the first listed number every slot reads `PROB_INIT`. -/
theorem probAt_of_lt {st : ProbStore} {lo n : Nat} (h : probWfFrom lo st = true) (hn : n < lo) :
    probAt st n = Config.probInit := by
  cases st with
  | nil => rfl
  | cons e st =>
    simp only [probWfFrom, Bool.and_eq_true, decide_eq_true_eq] at h
    simp only [probAt]
    rw [if_neg (by omega), if_pos (by omega)]

theorem probAt_probCons {st : ProbStore} {n : Nat} (p : Prob) (h : probWfFrom (n + 1) st = true) (m : Nat) :
    probAt (probCons n p st) m = if m = n then p else probAt st m := by
  unfold probCons
  split
  · next hp =>
    split
    · next hm => subst hm; rw [probAt_of_lt h (by omega), hp]
    · rfl
  · simp only [probAt]
    split
    · rfl
    · split
      · exact (probAt_of_lt h (by omega)).symm
      · rfl

theorem probAt_probPut {lo n : Nat} (p : Prob) (st : ProbStore) (h : probWfFrom lo st = true) (m : Nat) :
    probAt (probPut n p st) m = if m = n then p else probAt st m := by
  induction st generalizing lo with
  | nil => exact probAt_probCons p rfl m
  | cons e st ih =>
    obtain ⟨a, v⟩ := e
    have h' := h
    simp only [probWfFrom, Bool.and_eq_true, decide_eq_true_eq] at h
    simp only [probPut]
    split
    · next heq =>
      subst heq
      rw [probAt_probCons p h.2]
      simp only [probAt]
      split
      · rfl
      · split
        · exact probAt_of_lt h.2 (by omega)
        · rfl
    · split
      · next hlt =>
        refine probAt_probCons p ?_ m
        simp only [probWfFrom, Bool.and_eq_true, decide_eq_true_eq]
        exact ⟨⟨hlt, h.1.2⟩, h.2⟩
      · simp only [probAt, ih h.2]
        split_ifs <;> first | rfl | omega

/-! ## The numbering -/

/-- A row and a column of a table are read back from row * width + column. -/
theorem row_column_eq {n a b c d : Nat} (hc : c < n) (hd : d < n) (h : n * a + c = n * b + d) :
    a = b ∧ c = d := by
  have hn : 0 < n := by omega
  have h1 : (n * a + c) / n = a := by rw [Nat.mul_add_div hn, Nat.div_eq_of_lt hc, Nat.add_zero]
  have h2 : (n * b + d) / n = b := by rw [Nat.mul_add_div hn, Nat.div_eq_of_lt hd, Nat.add_zero]
  have hab : a = b := by rw [← h1, h, h2]
  subst hab
  exact ⟨rfl, by omega⟩

/-- Which of the arrays of 10_state.md R45 to R56 a slot stands in. -/
def slotArray : Slot → Nat
  | .isMatch _ _ => 0
  | .isRep _ => 1
  | .isRepG0 _ => 2
  | .isRepG1 _ => 3
  | .isRepG2 _ => 4
  | .isRep0Long _ _ => 5
  | .posSlot _ _ => 6
  | .specPos _ => 7
  | .align _ => 8
  | .choice .lenDec => 9
  | .choice2 .lenDec => 10
  | .low .lenDec _ _ => 11
  | .mid .lenDec _ _ => 12
  | .high .lenDec _ => 13
  | .choice .repLenDec => 14
  | .choice2 .repLenDec => 15
  | .low .repLenDec _ _ => 16
  | .mid .repLenDec _ _ => 17
  | .high .repLenDec _ => 18
  | .literal _ _ => 19

/-- The first number of each array. -/
def arrayStart (n : Nat) : Nat :=
  [0, 192, 204, 216, 228, 240, 432, 688, 803, 819, 820, 821, 949, 1077, 1333, 1334, 1335, 1463, 1591, 1847][n]?.getD 0

/-- A slot's number lies in its array's own stretch (10_state.md R58, R60). -/
theorem slotAddr_in_array (a : Slot) :
    arrayStart (slotArray a) ≤ slotAddr a ∧
      (slotArray a < 19 → slotAddr a < arrayStart (slotArray a + 1)) ∧ slotArray a ≤ 19 := by
  rcases a with ⟨s, ps⟩ | s | s | s | s | ⟨s, ps⟩ | ⟨ls, m⟩ | i | m | (_ | _) | (_ | _) | ⟨_ | _, ps, m⟩ |
    ⟨_ | _, ps, m⟩ | ⟨_ | _, m⟩ | ⟨k, j⟩ <;>
    simp [slotArray, slotAddr, arrayStart, lenSetBase] <;> omega

theorem arrayStart_mono {m n : Nat} (h : m ≤ n) (hn : n ≤ 19) : arrayStart m ≤ arrayStart n := by
  have : ∀ n, n ≤ 19 → ∀ m, m ≤ n → arrayStart m ≤ arrayStart n := by decide
  exact this n hn m h

/-- Slots with one number stand in one array. -/
theorem slotArray_eq {a b : Slot} (h : slotAddr a = slotAddr b) : slotArray a = slotArray b := by
  have ha := slotAddr_in_array a
  have hb := slotAddr_in_array b
  rcases Nat.lt_trichotomy (slotArray a) (slotArray b) with hlt | heq | hlt
  · have := arrayStart_mono (m := slotArray a + 1) (n := slotArray b) (by omega) hb.2.2
    omega
  · exact heq
  · have := arrayStart_mono (m := slotArray b + 1) (n := slotArray a) (by omega) ha.2.2
    omega

/-- The numbering gives every slot its own number (10_state.md R58). -/
theorem slotAddr_injective {a b : Slot} (h : slotAddr a = slotAddr b) : a = b := by
  have harr := slotArray_eq h
  rcases a with ⟨s, ps⟩ | s | s | s | s | ⟨s, ps⟩ | ⟨ls, m⟩ | i | m | (_ | _) | (_ | _) | ⟨_ | _, ps, m⟩ |
    ⟨_ | _, ps, m⟩ | ⟨_ | _, m⟩ | ⟨k, j⟩ <;>
  rcases b with ⟨s', ps'⟩ | s' | s' | s' | s' | ⟨s', ps'⟩ | ⟨ls', m'⟩ | i' | m' | (_ | _) | (_ | _) |
    ⟨_ | _, ps', m'⟩ | ⟨_ | _, ps', m'⟩ | ⟨_ | _, m'⟩ | ⟨k', j'⟩ <;>
  first
    | rfl
    | (exfalso; simp only [slotArray] at harr; omega)
    | (simp only [slotAddr, lenSetBase] at h
       first
         | (obtain rfl : s = s' := Fin.ext (by omega)
            rfl)
         | (obtain rfl : i = i' := by omega
            rfl)
         | (obtain rfl : m = m' := by omega
            rfl)
         | (have := row_column_eq (a := s.val) (b := s'.val) ps.isLt ps'.isLt (by omega)
            obtain rfl : s = s' := Fin.ext (by omega)
            obtain rfl : ps = ps' := by omega
            rfl)
         | (have := row_column_eq (a := ls.val) (b := ls'.val) m.isLt m'.isLt (by omega)
            obtain rfl : ls = ls' := by omega
            obtain rfl : m = m' := by omega
            rfl)
         | (have := row_column_eq (a := ps.val) (b := ps'.val) m.isLt m'.isLt (by omega)
            obtain rfl : ps = ps' := by omega
            obtain rfl : m = m' := by omega
            rfl)
         | (have := row_column_eq (a := k.val) (b := k'.val) j.isLt j'.isLt (by omega)
            obtain rfl : k = k' := by omega
            obtain rfl : j = j' := by omega
            rfl))

/-! ## Slots -/

/-- Every slot of the fresh store reads `PROB_INIT` (10_state.md R61). -/
@[simp] theorem getProb_nil (a : Slot) : getProb a [] = Config.probInit := rfl

/-- A slot reads what was last written to it; no write reaches another slot (10_state.md R44, R58). -/
theorem getProb_setProb {st : ProbStore} (h : probWf st = true) (a b : Slot) (p : Prob) :
    getProb b (setProb a p st) = if b = a then p else getProb b st := by
  rw [getProb, setProb, probAt_probPut p st h]
  by_cases hba : b = a
  · rw [if_pos (by rw [hba]), if_pos hba]
  · rw [if_neg (fun heq => hba (slotAddr_injective heq)), if_neg hba, getProb]

/-- A write lists the written value or an old one. -/
theorem mem_probPut {n : Nat} {p : Prob} {st : ProbStore} {e : Nat × Prob} (h : e ∈ probPut n p st) :
    e = (n, p) ∨ e ∈ st := by
  have hcons : ∀ {st : ProbStore}, e ∈ probCons n p st → e = (n, p) ∨ e ∈ st := by
    intro st h
    unfold probCons at h
    split at h
    · exact .inr h
    · simpa using h
  induction st with
  | nil => exact hcons h
  | cons f st ih =>
    obtain ⟨a, v⟩ := f
    simp only [probPut] at h
    split at h
    · rcases hcons h with h | h
      · exact .inl h
      · exact .inr (List.mem_cons_of_mem _ h)
    · split at h
      · exact hcons h
      · rcases List.mem_cons.mp h with h | h
        · exact .inr (h ▸ List.mem_cons_self)
        · rcases ih h with h | h
          · exact .inl h
          · exact .inr (List.mem_cons_of_mem _ h)

/-- A listed value or `PROB_INIT`. -/
theorem probAt_mem (st : ProbStore) (n : Nat) : probAt st n = Config.probInit ∨ (n, probAt st n) ∈ st := by
  induction st with
  | nil => exact .inl rfl
  | cons f st ih =>
    obtain ⟨a, v⟩ := f
    simp only [probAt]
    split
    · next heq => subst heq; exact .inr List.mem_cons_self
    · split
      · exact .inl rfl
      · rcases ih with ih | ih
        · exact .inl ih
        · exact .inr (List.mem_cons_of_mem _ ih)

end Sys2Proof.Machine
end

