-- ==== Sys2Proof/Laws/Decoder.lean ====
section
/-! SUPPORT. What a decision of the range decoder can do, and what any decoding can do, once each. -/

namespace Sys2Proof.Machine

/-- `t` differs from `s` only in what the range decoder writes: `range`, `code`, `cursor` and the slots (10_state.md R31
to R33, R44). -/
def DecoderFrame (s t : State) : Prop :=
  t = { s with range := t.range, code := t.code, cursor := t.cursor, probs := t.probs }

theorem DecoderFrame.refl (s : State) : DecoderFrame s s := rfl

theorem DecoderFrame.trans {s t u : State} (h : DecoderFrame s t) (h' : DecoderFrame t u) : DecoderFrame s u := by
  unfold DecoderFrame at *
  rw [h', h]

/-- The state a part of a command leaves, before a failure is recorded. -/
def Res.state {α : Type} : Res α → State
  | .ok _ s => s
  | .fail _ s => s

@[simp] theorem Res.state_ok {α : Type} (a : α) (s : State) : (Res.ok a s).state = s := rfl
@[simp] theorem Res.state_fail {α : Type} (k : FailKind) (s : State) : (Res.fail k s : Res α).state = s := rfl

/-- A state after Normalize's shift (40_range_decoder.md R141). -/
def shiftIn (b : Byte) (s : State) : State :=
  { s with range := s.range <<< 8, code := (s.code <<< 8) ||| b.setWidth 32, cursor := s.cursor + 1 }

/-- What Normalize can do (40_range_decoder.md R141). -/
theorem normalize_cases (s : State) :
    (Config.top ≤ s.range ∧ normalize s = .ok () s) ∨
    (s.range < Config.top ∧ ∃ b, s.cursor < s.inp.length ∧ s.inp.read s.cursor = some b ∧
      normalize s = .ok () (shiftIn b s)) ∨
    (s.range < Config.top ∧ s.inp.length ≤ s.cursor ∧ normalize s = .fail .rangeDecoderInitFailure s) := by
  unfold normalize
  split
  · next h =>
    rcases readByte_cases s with ⟨hc, hr⟩ | ⟨b, hc, hb, hr⟩
    · exact .inr (.inr ⟨h, hc, by rw [hr]; rfl⟩)
    · exact .inr (.inl ⟨h, b, hc, hb, by rw [hr]; rfl⟩)
  · next h => exact .inl ⟨BitVec.not_lt.mp h, rfl⟩

/-- The bit a decision gives and the registers before its Normalize (40_range_decoder.md R142, R145). -/
def decisionBit (d : Decision) (s : State) : Bool :=
  match d with
  | .adaptive slot => !decide (s.code < boundOf slot s)
  | .direct => decide (s.range >>> 1 ≤ s.code)

/-- The registers before a decision's Normalize (40_range_decoder.md R142, R145). -/
def decisionState (d : Decision) (s : State) : State :=
  match d with
  | .adaptive slot => if s.code < boundOf slot s then takeZero slot s else takeOne slot s
  | .direct => (takeDirect s).2

/-- A decision is its bit and its registers, then Normalize (40_range_decoder.md R142, R145). -/
theorem takeDecision_eq (d : Decision) (s : State) :
    takeDecision d s = (normalize (decisionState d s)).andThen fun _ s' => .ok (decisionBit d s) s' := by
  cases d with
  | adaptive slot =>
    simp only [takeDecision, decodeBit, decisionState, decisionBit]
    by_cases h : s.code < boundOf slot s <;> simp [h, -BitVec.not_lt]
  | direct =>
    simp only [takeDecision, decodeDirectBit, decisionState, decisionBit]
    congr 1
    funext _ s'
    unfold takeDirect
    split <;> simp_all

/-- What a decision can do: no byte, one byte, or the failure for want of a byte (40_range_decoder.md R142, R145,
R151). -/
theorem takeDecision_cases (d : Decision) (s : State) :
    (Config.top ≤ (decisionState d s).range ∧ takeDecision d s = .ok (decisionBit d s) (decisionState d s)) ∨
    ((decisionState d s).range < Config.top ∧ ∃ b, s.cursor < s.inp.length ∧ s.inp.read s.cursor = some b ∧
      takeDecision d s = .ok (decisionBit d s) (shiftIn b (decisionState d s))) ∨
    ((decisionState d s).range < Config.top ∧ s.inp.length ≤ s.cursor ∧
      takeDecision d s = .fail .rangeDecoderInitFailure (decisionState d s)) := by
  have hinp : (decisionState d s).inp = s.inp ∧ (decisionState d s).cursor = s.cursor := by
    cases d with
    | adaptive slot => simp only [decisionState]; split <;> simp
    | direct => simp [decisionState]
  have hn := normalize_cases (decisionState d s)
  rw [hinp.1, hinp.2] at hn
  rcases hn with ⟨h, hn⟩ | ⟨h, b, hc, hb, hn⟩ | ⟨h, hc, hn⟩
  · exact .inl ⟨h, by rw [takeDecision_eq, hn]; rfl⟩
  · exact .inr (.inl ⟨h, b, hc, hb, by rw [takeDecision_eq, hn]; rfl⟩)
  · exact .inr (.inr ⟨h, hc, by rw [takeDecision_eq, hn]; rfl⟩)

theorem decisionState_frame (d : Decision) (s : State) : DecoderFrame s (decisionState d s) := by
  cases d with
  | adaptive slot => simp only [decisionState]; split <;> rfl
  | direct => simp only [decisionState, takeDirect]; split <;> rfl

theorem shiftIn_frame (b : Byte) (s : State) : DecoderFrame s (shiftIn b s) := rfl

/-- A decision writes nothing but the range decoder's registers and slots (40_range_decoder.md R142, R145). -/
theorem takeDecision_frame (d : Decision) (s : State) : DecoderFrame s (takeDecision d s).state := by
  rcases takeDecision_cases d s with ⟨_, h⟩ | ⟨_, b, _, _, h⟩ | ⟨_, _, h⟩ <;> rw [h]
  · exact decisionState_frame d s
  · exact (decisionState_frame d s).trans (shiftIn_frame b _)
  · exact decisionState_frame d s

/-- The one induction over decodings: what every decision keeps, every decoding keeps. -/
theorem runFetch_keeps {α : Type} (R : State → State → Prop) (refl : ∀ s, R s s)
    (trans : ∀ s t u, R s t → R t u → R s u) (one : ∀ d s, R s (takeDecision d s).state)
    (p : Fetch α) (s : State) : R s (runFetch p s).state := by
  induction p generalizing s with
  | done a => exact refl s
  | fail k => exact refl s
  | ask d next ih =>
    have h := one d s
    simp only [runFetch]
    cases hd : takeDecision d s with
    | ok b s' => rw [hd] at h; exact trans _ _ _ h (ih b s')
    | fail k s' => rw [hd] at h; exact h

/-- The same for a property of one state that every decision that goes through keeps. -/
theorem runFetch_keeps_ok {α : Type} (Q : State → Prop) (one : ∀ d s b t, Q s → takeDecision d s = .ok b t → Q t)
    (p : Fetch α) {s t : State} {a : α} (hs : Q s) (h : runFetch p s = .ok a t) : Q t := by
  induction p generalizing s with
  | done a => simp only [runFetch, Res.ok.injEq] at h; exact h.2 ▸ hs
  | fail k => simp [runFetch] at h
  | ask d next ih =>
    simp only [runFetch] at h
    cases hd : takeDecision d s with
    | ok b s' => rw [hd] at h; exact ih b (one d s b s' hs hd) h
    | fail k s' => rw [hd] at h; simp at h

/-- A decoding writes nothing but the range decoder's registers and slots (44_output_window.md R266). -/
theorem runFetch_frame {α : Type} (p : Fetch α) (s : State) : DecoderFrame s (runFetch p s).state :=
  runFetch_keeps DecoderFrame .refl (fun _ _ _ => .trans) takeDecision_frame p s

/-- A decoding is its parts in turn. -/
theorem runFetch_bind {α β : Type} (p : Fetch α) (f : α → Fetch β) (s : State) :
    runFetch (p.bind f) s = (runFetch p s).andThen fun a s' => runFetch (f a) s' := by
  induction p generalizing s with
  | done a => rfl
  | fail k => rfl
  | ask d next ih =>
    simp only [Fetch.bind, runFetch]
    cases takeDecision d s with
    | ok b s' => exact ih b s'
    | fail k s' => rfl

end Sys2Proof.Machine

namespace Sys2Proof

/-- Reading decisions from a list is reading the parts in turn. -/
theorem Fetch.read_bind {α β : Type} (p : Fetch α) (f : α → Fetch β) (bits : List Bool) :
    (p.bind f).read bits = (p.read bits).bind fun r => (f r.1).read r.2 := by
  induction p generalizing bits with
  | done a => rfl
  | fail k => cases bits <;> rfl
  | ask d next ih =>
    cases bits with
    | nil => rfl
    | cons b bits => exact ih b bits

/-- A fetch mapped reads what the fetch reads. -/
theorem Fetch.read_map {α β : Type} (f : α → β) (p : Fetch α) (bits : List Bool) :
    (p.map f).read bits = (p.read bits).map fun r => (f r.1, r.2) := by
  unfold Fetch.map
  induction p generalizing bits with
  | done a => rfl
  | fail k => cases bits <;> rfl
  | ask d next ih =>
    cases bits with
    | nil => rfl
    | cons b bits => exact ih b bits

end Sys2Proof
end

