-- ==== Sys2Proof/Laws/Symbols.lean ====
section
/-! SUPPORT. What the effect of a symbol can do, once for each shape and once for all symbols. -/

namespace Sys2Proof.Machine

/-- The repeat distances after a symbol (45_decode_loop.md R292). -/
def repsAfter (y : Symbol) (s : State) : State :=
  match y with
  | .lit _ => s
  | .newMatch _ dist => pushRep dist s
  | .eos _ => s
  | .shortRep => s
  | .longRep0 _ => promoteRep 0 s
  | .longRep1 _ => promoteRep 1 s
  | .longRep2 _ => promoteRep 2 s
  | .longRep3 _ => promoteRep 3 s

/-- `state` after a symbol (45_decode_loop.md R294). -/
def stateAfter (y : Symbol) (s : LzmaState) : LzmaState :=
  match y with
  | .lit _ => updateLiteral s
  | .newMatch _ _ => updateMatch s
  | .eos _ => s
  | .shortRep => updateShortRep s
  | .longRep0 _ => updateRep s
  | .longRep1 _ => updateRep s
  | .longRep2 _ => updateRep s
  | .longRep3 _ => updateRep s

/-- The bytes a symbol appends are within `remaining` in bounded mode, by its own check or by STEP's size test
(45_decode_loop.md R291). -/
def fits (y : Symbol) (s : State) : Prop :=
  match y with
  | .lit _ => True
  | .shortRep => True
  | _ => s.bounded = true → symbolLen y ≤ s.remaining.toNat

/-- The distance a symbol copies from, if any. -/
def copyDistance (y : Symbol) (s : State) : Option U32 :=
  match y with
  | .lit _ => none
  | .newMatch _ dist => some dist
  | .eos _ => none
  | .shortRep => some s.rep0
  | .longRep0 _ => some s.rep0
  | .longRep1 _ => some s.rep1
  | .longRep2 _ => some s.rep2
  | .longRep3 _ => some s.rep3

theorem exceedsRemaining_eq_false {len : Nat} {s : State} :
    exceedsRemaining len s = false ↔ (s.bounded = true → len ≤ s.remaining.toNat) := by
  unfold exceedsRemaining
  cases s.bounded <;> simp

/-- What a MATCH can do (45_decode_loop.md R283). -/
theorem newMatchEffect_cases (len : Nat) (dist : U32) (s : State) :
    (∃ k, checkDist dist s = some k ∧ newMatchEffect len dist s = raiseFail k s) ∨
    (checkDist dist s = none ∧ exceedsRemaining len s = true ∧
      newMatchEffect len dist s = raiseFail .uncompressedSizeExceeded s) ∨
    (checkDist dist s = none ∧ exceedsRemaining len s = false ∧
      ∃ ext : Memory, ext.length = len ∧ winCopy dist len s.out = some (s.out ++ ext) ∧
        newMatchEffect len dist s =
          countDown len { pushRep dist s with out := s.out ++ ext, lzmaState := updateMatch s.lzmaState }) := by
  unfold newMatchEffect
  cases hc : checkDist dist s with
  | some k => exact .inl ⟨k, rfl, rfl⟩
  | none =>
    refine .inr ?_
    cases he : exceedsRemaining len s with
    | true => exact .inl ⟨rfl, rfl, by simp [he]⟩
    | false =>
      obtain ⟨out, ext, h1, h2, h3, h4⟩ := copyToWindow_ok len
        (s := { pushRep dist s with lzmaState := updateMatch s.lzmaState }) (checkDist_eq_none.mp hc).1
      have h2 : out = s.out ++ ext := h2
      subst h2
      refine .inr ⟨rfl, rfl, ext, h3, h1, ?_⟩
      simp only [failIf_none, Res.andThen_ok, he, Bool.false_eq_true, if_false, h4, Res.settle_ok]

/-- What a SHORTREP can do (45_decode_loop.md R285). -/
theorem shortRepEffect_cases (s : State) :
    (∃ k, checkDist s.rep0 s = some k ∧ shortRepEffect s = raiseFail k s) ∨
    (checkDist s.rep0 s = none ∧
      ∃ ext : Memory, ext.length = 1 ∧ winCopy s.rep0 1 s.out = some (s.out ++ ext) ∧
        shortRepEffect s =
          countDown 1 { s with out := s.out ++ ext, lzmaState := updateShortRep s.lzmaState }) := by
  unfold shortRepEffect
  cases hc : checkDist s.rep0 s with
  | some k => exact .inl ⟨k, rfl, rfl⟩
  | none =>
    obtain ⟨out, ext, h1, h2, h3, h4⟩ := copyToWindow_ok 1
      (s := { s with lzmaState := updateShortRep s.lzmaState }) (checkDist_eq_none.mp hc).1
    have h2 : out = s.out ++ ext := h2
    subst h2
    refine .inr ⟨rfl, ext, h3, h1, ?_⟩
    simp only [failIf_none, Res.andThen_ok, h4, Res.settle_ok]

/-- What a LONGREPk can do (45_decode_loop.md R289). -/
theorem longRepEffect_cases (k : Fin 4) (len : Nat) (s : State) :
    (∃ f, checkDist (repAt k s) s = some f ∧ longRepEffect k len s = raiseFail f s) ∨
    (checkDist (repAt k s) s = none ∧ exceedsRemaining len s = true ∧
      longRepEffect k len s = raiseFail .repeatLengthExceedsRemaining s) ∨
    (checkDist (repAt k s) s = none ∧ exceedsRemaining len s = false ∧
      ∃ ext : Memory, ext.length = len ∧ winCopy (repAt k s) len s.out = some (s.out ++ ext) ∧
        longRepEffect k len s =
          countDown len { promoteRep k s with out := s.out ++ ext, lzmaState := updateRep s.lzmaState }) := by
  unfold longRepEffect
  cases hc : checkDist (repAt k s) s with
  | some f => exact .inl ⟨f, rfl, rfl⟩
  | none =>
    refine .inr ?_
    cases he : exceedsRemaining len s with
    | true => exact .inl ⟨rfl, rfl, by simp [he]⟩
    | false =>
      have hprod : ({ promoteRep k s with lzmaState := updateRep s.lzmaState } : State).out = s.out := by simp
      obtain ⟨out, ext, h1, h2, h3, h4⟩ := copyToWindow_ok len (d := repAt k s)
        (s := { promoteRep k s with lzmaState := updateRep s.lzmaState })
        (by simpa using (checkDist_eq_none.mp hc).1)
      rw [hprod] at h1 h2
      subst h2
      refine .inr ⟨rfl, rfl, ext, h3, h1, ?_⟩
      simp only [failIf_none, Res.andThen_ok, he, Bool.false_eq_true, if_false, h4, Res.settle_ok]

/-- What any symbol's effect can do: fail with nothing else changed; end the stream; or append its bytes, update the reps
and `state`, and count (45_decode_loop.md R282 to R294). -/
theorem symbolEffect_cases (y : Symbol) (s : State) :
    (∃ k, symbolEffect y s = raiseFail k s) ∨
    (∃ len, y = .eos len ∧ s.bounded = false ∧ symbolEffect y s = reachDone .endMarker s) ∨
    ((∀ d, copyDistance y s = some d → d.toNat < s.produced ∧ d < s.dictionarySize) ∧ fits y s ∧
      ∃ ext : Memory, ext.length = symbolLen y ∧
        symbolEffect y s = countDown (symbolLen y)
          { repsAfter y s with out := s.out ++ ext, lzmaState := stateAfter y s.lzmaState }) := by
  have hrep : ∀ k len, (symbolEffect y s = longRepEffect k len s) → symbolLen y = len →
      repsAfter y s = promoteRep k s → stateAfter y s.lzmaState = updateRep s.lzmaState →
      copyDistance y s = some (repAt k s) →
      (exceedsRemaining len s = false → fits y s) →
      (∃ f, symbolEffect y s = raiseFail f s) ∨
      ((∀ d, copyDistance y s = some d → d.toNat < s.produced ∧ d < s.dictionarySize) ∧ fits y s ∧
      ∃ ext : Memory, ext.length = symbolLen y ∧
        symbolEffect y s = countDown (symbolLen y)
          { repsAfter y s with out := s.out ++ ext, lzmaState := stateAfter y s.lzmaState }) := by
    intro k len he hl hr hs hd hf
    rcases longRepEffect_cases k len s with ⟨f, _, h⟩ | ⟨_, _, h⟩ | ⟨h1, h2, ext, h3, _, h⟩
    · exact .inl ⟨f, by rw [he, h]⟩
    · exact .inl ⟨_, by rw [he, h]⟩
    · refine .inr ⟨?_, hf h2, ext, by rw [hl]; exact h3, by rw [he, h, hl, hr, hs]⟩
      intro d hd'
      rw [hd] at hd'
      cases hd'
      exact checkDist_eq_none.mp h1
  cases y with
  | lit b => exact .inr (.inr ⟨by simp [copyDistance], trivial, [b], rfl, rfl⟩)
  | newMatch len dist =>
    rcases newMatchEffect_cases len dist s with ⟨f, _, h⟩ | ⟨_, _, h⟩ | ⟨h1, h2, ext, h3, _, h⟩
    · exact .inl ⟨f, h⟩
    · exact .inl ⟨_, h⟩
    · refine .inr (.inr ⟨?_, exceedsRemaining_eq_false.mp h2, ext, h3, h⟩)
      intro d hd
      simp only [copyDistance, Option.some.injEq] at hd
      subst hd
      exact checkDist_eq_none.mp h1
  | eos len =>
    cases hb : s.bounded with
    | true => exact .inl ⟨.prematureEndMarker, by simp [symbolEffect, eosEffect, hb]⟩
    | false => exact .inr (.inl ⟨len, rfl, rfl, by simp [symbolEffect, eosEffect, hb]⟩)
  | shortRep =>
    rcases shortRepEffect_cases s with ⟨f, _, h⟩ | ⟨h1, ext, h3, _, h⟩
    · exact .inl ⟨f, h⟩
    · refine .inr (.inr ⟨?_, trivial, ext, h3, h⟩)
      intro d hd
      simp only [copyDistance, Option.some.injEq] at hd
      subst hd
      exact checkDist_eq_none.mp h1
  | longRep0 len =>
    exact (hrep 0 len rfl rfl rfl rfl rfl exceedsRemaining_eq_false.mp).imp_right .inr
  | longRep1 len =>
    exact (hrep 1 len rfl rfl rfl rfl rfl exceedsRemaining_eq_false.mp).imp_right .inr
  | longRep2 len =>
    exact (hrep 2 len rfl rfl rfl rfl rfl exceedsRemaining_eq_false.mp).imp_right .inr
  | longRep3 len =>
    exact (hrep 3 len rfl rfl rfl rfl rfl exceedsRemaining_eq_false.mp).imp_right .inr

/-- Executing a symbol is its effect. -/
theorem exec_symbol (y : Symbol) (s : State) : exec y.toInstr s = .next (symbolEffect y s) := by
  cases y <;> rfl

/-- CheckDist reads nothing that a decoding writes, so it answers the same before and after the operand fields
(45_decode_loop.md R289, log entry 13). -/
theorem checkDist_of_frame {s t : State} (h : DecoderFrame s t) (d : U32) : checkDist d t = checkDist d s := by
  rw [h]; rfl

end Sys2Proof.Machine
end

