-- ==== Sys2Proof/Laws/Commands.lean ====
section
/-! SUPPORT. What a STEP and a step of the machine can do, once each. -/

namespace Sys2Proof.Machine

/-- What one decoding of a symbol does to the state: the symbol read and the state after it, or the failure. -/
theorem decodeSymbolStep_cases (s : State) :
    (∃ y s', fetchSymbol s = .ok y s' ∧ DecoderFrame s s' ∧ decodeSymbolStep s = symbolEffect y s') ∨
    (∃ k s', fetchSymbol s = .fail k s' ∧ DecoderFrame s s' ∧ decodeSymbolStep s = raiseFail k s') := by
  have hf := runFetch_frame (symbolFetch (contextOf s)) s
  unfold decodeSymbolStep
  cases h : fetchSymbol s with
  | ok y s' => rw [fetchSymbol] at h; rw [h] at hf; exact .inl ⟨y, s', rfl, hf, rfl⟩
  | fail k s' => rw [fetchSymbol] at h; rw [h] at hf; exact .inr ⟨k, s', rfl, hf, rfl⟩

/-- A STEP in Running (45_decode_loop.md R280). -/
theorem stepEffect_running {s : State} (h : s.status = .running) : stepEffect s = runningStep (respondOk s) := by
  simp [stepEffect, h]

/-- What a STEP can do, by status (45_decode_loop.md R280, 46_host_commands.md R326). -/
theorem stepEffect_cases (s : State) :
    ((s.status = .unconfigured ∨ s.status = .configured) ∧ stepEffect s = raiseFail .uninitializedDecoder s) ∨
    ((s.status = .done ∨ s.status = .verified ∨ s.status = .failed) ∧ stepEffect s = respondOk s) ∨
    (s.status = .running ∧ sizeReached s = true ∧ stepEffect s = reachDone .sizeReached (respondOk s)) ∨
    (s.status = .running ∧ sizeReached s = false ∧ stepEffect s = decodeSymbolStep (respondOk s)) := by
  have hsize : sizeReached (respondOk s) = sizeReached s := rfl
  unfold stepEffect runningStep
  rw [hsize]
  cases s.status <;> cases sizeReached s <;> simp

/-- RUN's loop gives the STEPs it takes to leave Running (45_decode_loop.md R295). -/
theorem runLoop_eq_some {n : Nat} {s t : State} (h : runLoop n s = some t) :
    ∃ k ≤ n, t = stepEffect^[k] s ∧ t.status ≠ .running ∧ ∀ j < k, (stepEffect^[j] s).status = .running := by
  induction n generalizing s with
  | zero =>
    simp only [runLoop] at h
    split at h
    · cases h
    · next hs => cases h; exact ⟨0, Nat.le_refl _, rfl, hs, fun j hj => absurd hj (Nat.not_lt_zero j)⟩
  | succ n ih =>
    simp only [runLoop] at h
    split at h
    · next hs =>
      obtain ⟨k, hk, ht, hr, hall⟩ := ih h
      refine ⟨k + 1, by omega, by rw [ht, Function.iterate_succ_apply], hr, ?_⟩
      intro j hj
      cases j with
      | zero => exact hs
      | succ j => rw [Function.iterate_succ_apply]; exact hall j (by omega)
    · next hs => cases h; exact ⟨0, Nat.zero_le _, rfl, hs, fun j hj => absurd hj (Nat.not_lt_zero j)⟩

/-- The commands of the decoder (30_encoding.md R119). -/
theorem decodeCall_cases (c : Call) :
    decodeCall c = .ok (.configure c.props c.dictionarySize c.sizeMode) ∨ decodeCall c = .ok .init ∨
      decodeCall c = .ok .step ∨ decodeCall c = .ok .run ∨ decodeCall c = .ok .finalize ∨
      decodeCall c = .error (.unassignedCode c.code) := by
  unfold decodeCall
  split <;> simp

/-- What a step of the machine can do: nothing, run one of the five commands, or refuse an unassigned code
(46_host_commands.md R326). -/
theorem step_cases (s : State) :
    (s.calls = [] ∧ step s = .next s) ∨
    (∃ c rest, s.calls = c :: rest ∧
      (step s = execConfigure c.props c.dictionarySize c.sizeMode { s with calls := rest } ∨
        step s = execInit { s with calls := rest } ∨ step s = execStep { s with calls := rest } ∨
        step s = execRun { s with calls := rest } ∨ step s = execFinalize { s with calls := rest } ∨
        step s = .next (refuse { s with calls := rest }))) := by
  unfold step nextCall
  cases hc : s.calls with
  | nil => exact .inl ⟨rfl, rfl⟩
  | cons c rest =>
    refine .inr ⟨c, rest, rfl, ?_⟩
    rcases decodeCall_cases c with h | h | h | h | h | h <;> simp [h, exec]

/-! ## The host's view -/

/-- After a failure the host may inspect the diagnostic state (60_exceptions.md R368). -/
theorem diagnose_of_failed {s : State} (h : s.status = .failed) : diagnose s = some (diagnosticState s) := by
  simp [diagnose, h]

/-- Out of Failed there is no diagnostic inspection (46_host_commands.md R328). -/
theorem diagnose_of_not_failed {s : State} (h : s.status ≠ .failed) : diagnose s = none := by
  unfold diagnose
  split <;> simp_all

/-- A failure changes none of the diagnostic values (60_exceptions.md R342, R368). -/
@[simp] theorem diagnosticState_raiseFail (k : FailKind) (s : State) :
    diagnosticState (raiseFail k s) = diagnosticState s := rfl

end Sys2Proof.Machine
end

