-- ==== Sys2Proof/Laws/PerInstr.lean ====
section
/-! SUPPORT. For every instruction: its encoding carries the fixed bits of its row of spec/opcode_table.json
(30_encoding.md R104, R119), whatever its operands. -/

namespace Sys2Proof.Laws.TableRow

/-- The match and the mask of an instruction's row (spec/opcode_table.json). -/
def row : Instr → Nat × Nat
  | .lit _ => (0x00, 0x10)
  | .newMatch _ _ => (0x10, 0x18)
  | .eos _ => (0x10, 0x18)
  | .shortRep => (0x18, 0x1E)
  | .longRep0 _ => (0x1A, 0x1E)
  | .longRep1 _ => (0x1C, 0x1E)
  | .longRep2 _ => (0x1E, 0x1F)
  | .longRep3 _ => (0x1F, 0x1F)
  | .configure _ _ _ => (0x01, 0xFF)
  | .init => (0x02, 0xFF)
  | .step => (0x03, 0xFF)
  | .run => (0x04, 0xFF)
  | .finalize => (0x05, 0xFF)

/-- The 5-bit window of a symbol's decisions, the first in bit 4, those past the end 0 (30_encoding.md R104). -/
def window : List Bool → Nat
  | a :: b :: c :: d :: e :: _ => 16 * a.toNat + 8 * b.toNat + 4 * c.toNat + 2 * d.toNat + e.toNat
  | [a, b, c, d] => 16 * a.toNat + 8 * b.toNat + 4 * c.toNat + 2 * d.toNat
  | [a, b, c] => 16 * a.toNat + 8 * b.toNat + 4 * c.toNat
  | [a, b] => 16 * a.toNat + 8 * b.toNat
  | [a] => 16 * a.toNat
  | [] => 0

/-- The bits the opcode table numbers. -/
def tableBits : Encoded → Nat
  | .decisions bits => window bits
  | .call c => c.code.toNat

end Sys2Proof.Laws.TableRow

namespace Sys2Proof.Laws

/-- The encoding carries the fixed bits of the row. -/
def TableRow.Statement (i : Instr) : Prop :=
  TableRow.tableBits (encode i) &&& (TableRow.row i).2 = (TableRow.row i).1

/-- A window under the mask of a prefix of two decisions. -/
theorem TableRow.window_two (a b : Bool) (l : List Bool) :
    TableRow.window (a :: b :: l) &&& 0x18 = 16 * a.toNat + 8 * b.toNat := by
  rcases l with _ | ⟨c, _ | ⟨d, _ | ⟨e, l⟩⟩⟩ <;> simp only [TableRow.window] <;> revert a b <;>
    (try revert c) <;> (try revert d) <;> (try revert e) <;> decide

/-- A window under the mask of a prefix of four decisions. -/
theorem TableRow.window_four (a b c d : Bool) (l : List Bool) :
    TableRow.window (a :: b :: c :: d :: l) &&& 0x1E = 16 * a.toNat + 8 * b.toNat + 4 * c.toNat + 2 * d.toNat := by
  rcases l with _ | ⟨e, l⟩ <;> simp only [TableRow.window] <;> revert a b c d <;> (try revert e) <;> decide

/-- A window under the mask of a prefix of five decisions. -/
theorem TableRow.window_five (a b c d e : Bool) (l : List Bool) :
    TableRow.window (a :: b :: c :: d :: e :: l) &&& 0x1F =
      16 * a.toNat + 8 * b.toNat + 4 * c.toNat + 2 * d.toNat + e.toNat := by
  simp only [TableRow.window]
  revert a b c d e
  decide

theorem TableRow.lit (b : Byte) : TableRow.Statement (.lit b) := by
  simp only [TableRow.Statement, encode, encodeSymbol, bitsMsb, TableRow.tableBits, TableRow.row, TableRow.window]
  generalize b.toNat.testBit 7 = p
  generalize b.toNat.testBit 6 = q
  generalize b.toNat.testBit 5 = r
  generalize b.toNat.testBit 4 = s
  revert p q r s
  decide

theorem TableRow.newMatch (len : Nat) (dist : U32) : TableRow.Statement (.newMatch len dist) :=
  TableRow.window_two true false (encodeLen len ++ encodeDist dist)

theorem TableRow.eos (len : Nat) : TableRow.Statement (.eos len) :=
  TableRow.window_two true false (encodeLen len ++ encodeDist Config.eosDist)

theorem TableRow.shortRep : TableRow.Statement .shortRep := by unfold TableRow.Statement; decide

theorem TableRow.longRep0 (len : Nat) : TableRow.Statement (.longRep0 len) :=
  TableRow.window_four true true false true (encodeLen len)

theorem TableRow.longRep1 (len : Nat) : TableRow.Statement (.longRep1 len) :=
  TableRow.window_four true true true false (encodeLen len)

theorem TableRow.longRep2 (len : Nat) : TableRow.Statement (.longRep2 len) :=
  TableRow.window_five true true true true false (encodeLen len)

theorem TableRow.longRep3 (len : Nat) : TableRow.Statement (.longRep3 len) :=
  TableRow.window_five true true true true true (encodeLen len)

theorem TableRow.configure (props : Byte) (dictionarySize : U32) (sizeMode : SizeMode) :
    TableRow.Statement (.configure props dictionarySize sizeMode) := by
  show (1 : Byte).toNat &&& 0xFF = 1
  decide

theorem TableRow.init : TableRow.Statement .init := by unfold TableRow.Statement; decide

theorem TableRow.step : TableRow.Statement .step := by unfold TableRow.Statement; decide

theorem TableRow.run : TableRow.Statement .run := by unfold TableRow.Statement; decide

theorem TableRow.finalize : TableRow.Statement .finalize := by unfold TableRow.Statement; decide

end Sys2Proof.Laws
end

