-- ==== Sys2Proof/Laws/Slots.lean ====
section
/-! SUPPORT. The slots a decoding asks for: of its parts in turn, and the small lemmas of the walks through the trees. -/

namespace Sys2Proof.Machine

@[simp] theorem fetchSlots_done {α : Type} (a : α) (bits : List Bool) : fetchSlots (.done a) bits = [] := by
  cases bits <;> rfl

@[simp] theorem fetchSlots_fail {α : Type} (k : FailKind) (bits : List Bool) :
    fetchSlots (.fail k : Fetch α) bits = [] := by
  cases bits <;> rfl

@[simp] theorem fetchSlots_adaptive {α : Type} (slot : Slot) (next : Bool → Fetch α) (b : Bool) (bits : List Bool) :
    fetchSlots (.ask (.adaptive slot) next) (b :: bits) = slot :: fetchSlots (next b) bits := rfl

@[simp] theorem fetchSlots_direct {α : Type} (next : Bool → Fetch α) (b : Bool) (bits : List Bool) :
    fetchSlots (.ask .direct next) (b :: bits) = fetchSlots (next b) bits := rfl

@[simp] theorem fetchSlots_decide1 {α : Type} (slot : Slot) (zero one : Fetch α) (b : Bool) (bits : List Bool) :
    fetchSlots (decide1 slot zero one) (b :: bits) = slot :: fetchSlots (if b then one else zero) bits := rfl

/-- A decoding that reads its part `p` asks for the slots of `p`, then for those of what follows. -/
theorem fetchSlots_bind {α β : Type} {p : Fetch α} {f : α → Fetch β} {bits rest : List Bool} {a : α}
    (h : p.read bits = .ok (a, rest)) : fetchSlots (p.bind f) bits = fetchSlots p bits ++ fetchSlots (f a) rest := by
  induction p generalizing bits with
  | done x =>
    simp only [Fetch.read, Except.ok.injEq, Prod.mk.injEq] at h
    obtain ⟨rfl, rfl⟩ := h
    simp [Fetch.bind]
  | fail k => simp [Fetch.read] at h
  | ask d next ih =>
    cases bits with
    | nil => simp [Fetch.read] at h
    | cons b bits =>
      have := ih b h
      cases d <;> simp [Fetch.bind, this]

/-- A value mapped changes no slot. -/
@[simp] theorem fetchSlots_map {α β : Type} (f : α → β) (p : Fetch α) (bits : List Bool) :
    fetchSlots (p.map f) bits = fetchSlots p bits := by
  unfold Fetch.map
  induction p generalizing bits with
  | done a => simp [Fetch.bind]
  | fail k => simp [Fetch.bind]
  | ask d next ih =>
    cases bits with
    | nil => cases d <;> rfl
    | cons b bits => cases d <;> simp [Fetch.bind, ih b bits]

@[simp] theorem forwardWalk_length (n v : Nat) : (forwardWalk n v).length = n := by simp [forwardWalk]

@[simp] theorem reverseWalk_length (n v : Nat) : (reverseWalk n v).length = n := by simp [reverseWalk]

@[simp] theorem walkSlots_map_fst (P : Nat → Slot) (walk : List (Nat × Bool)) :
    (walkSlots P walk).map Prod.fst = walk.map fun e => P e.1 := by
  simp [walkSlots, Function.comp_def]

/-- The low bits reversed stay below `2^k`, so a walk stays in its tree. -/
theorem reverseLow_lt (k v : Nat) : reverseLow k v < 2 ^ k := by
  induction k with
  | zero => simp [reverseLow]
  | succ k ih =>
    have := Bool.toNat_le (v.testBit k)
    simp only [reverseLow]
    omega

end Sys2Proof.Machine
end

