-- ==== Sys2Proof/Tests/Slice0.lean ====
section
/-! SUPPORT. Tests: each expected value is the spec's own, named beside it, or read off its tables by hand; and for every
statement with hypotheses a witness that meets them together. -/

namespace Sys2Proof.Tests

open Sys2Proof Sys2Proof.Machine

/-! ## Small states -/

/-- A session in Running at the start of a stream, with the configuration of 95_test_vectors.md P1 and P2. -/
def running (code : U32) (inp : List Byte) : State :=
  { State.reset with
    range := 0xFFFFFFFF, code := code, cursor := 5, inp := inp, status := .running,
    lc := 3, pb := 2, dictionarySize := 65536 }

/-- P1 after INIT (95_test_vectors.md P1). -/
def p1 : State :=
  { running 0x30989D00 [0x00, 0x30, 0x98, 0x9D, 0x00, 0x00, 0x00, 0x00] with bounded := true, remaining := 5 }

/-- A session in the middle of a stream: output "wxyz", reps 3, 1, 0, 2, `state` 7. -/
def mid : State :=
  { running 0x30989D00 [0x00, 0x30, 0x98, 0x9D, 0x00, 0x00] with
    out := [0x77, 0x78, 0x79, 0x7A], lzmaState := 7, rep0 := 3, rep1 := 1, rep2 := 0, rep3 := 2,
    dictionarySize := 4, bounded := true, remaining := 6 }

/-- The state an outcome answers, reset where it answers none. -/
def after (o : Host.Outcome State Fault Refusal) : State :=
  match o with
  | .next s => s
  | .fault _ => State.reset
  | .refused _ => State.reset

/-- Whether an outcome is a next state. -/
def isNext (o : Host.Outcome State Fault Refusal) : Bool :=
  match o with
  | .next _ => true
  | .fault _ => false
  | .refused _ => false

theorem exists_next {o : Host.Outcome State Fault Refusal} (h : isNext o = true) : ∃ t, o = .next t := by
  cases o with
  | next t => exact ⟨t, rfl⟩
  | fault r => cases h
  | refused r => cases h

/-! ## Well-formedness: each check refuses -/

theorem test_wf_length_below_two : (Instr.newMatch 1 0).wf = false := by decide
theorem test_wf_length_above_273 : (Instr.newMatch 274 0).wf = false := by decide
theorem test_wf_match_of_end_marker : (Instr.newMatch 2 0xFFFFFFFF).wf = false := by decide
theorem test_wf_eos_length : (Instr.eos 0).wf = false := by decide
theorem test_wf_long_reps :
    (Instr.longRep0 1).wf = false ∧ (Instr.longRep1 274).wf = false ∧ (Instr.longRep2 0).wf = false ∧
      (Instr.longRep3 300).wf = false := by decide
theorem test_wf_ends_of_the_range :
    (Instr.newMatch 2 0xFFFFFFFE).wf = true ∧ (Instr.longRep3 273).wf = true := by decide

/-! ## Decoding: words written out from 30_encoding.md R102 to R110, R119 -/

/-- 'a' = 0x61, the decisions of 42_state_machine.md R200. -/
theorem test_decode_lit :
    decode (.decisions [false, false, true, true, false, false, false, false, true]) = .ok (.lit 0x61) := by decide
/-- Prefix 10, length 17 (10 then 111), slot 13 (001101), five reverse bits 10110 = 13: distance 0x60 + 13. -/
theorem test_decode_match :
    decode (.decisions [true, false, true, false, true, true, true, false, false, true, true, false, true,
      true, false, true, true, false]) = .ok (.newMatch 17 0x6D) := by decide
/-- Prefix 10, length 18, slot 14 (001110), direct bits 10, align 1001: distance 0x80 + 0x20 + 9. -/
theorem test_decode_match_direct :
    decode (.decisions ([true, false, true, true] ++ List.replicate 8 false ++
      [false, false, true, true, true, false, true, false, true, false, false, true])) =
      .ok (.newMatch 18 0xA9) := by decide
/-- 30_encoding.md R112: slot 63, 26 direct bits 1, align 15. -/
theorem test_decode_eos :
    decode (.decisions ([true, false, false, false, false, false] ++ List.replicate 36 true)) = .ok (.eos 2) := by
  decide
theorem test_decode_shortRep : decode (.decisions [true, true, false, false]) = .ok .shortRep := by decide
theorem test_decode_longRep0 :
    decode (.decisions [true, true, false, true, false, false, true, true]) = .ok (.longRep0 5) := by decide
theorem test_decode_longRep1 :
    decode (.decisions [true, true, true, false, true, false, false, false, true]) = .ok (.longRep1 11) := by decide
theorem test_decode_longRep2 :
    decode (.decisions [true, true, true, true, false, false, false, false, false]) = .ok (.longRep2 2) := by decide
theorem test_decode_longRep3 :
    decode (.decisions ([true, true, true, true, true, true, true] ++ List.replicate 8 true)) =
      .ok (.longRep3 273) := by decide
theorem test_decode_configure :
    decode (.call ⟨1, 93, 65536, .bounded 5⟩) = .ok (.configure 93 65536 (.bounded 5)) := by decide
theorem test_decode_commands :
    decode (.call { code := 2 }) = .ok .init ∧ decode (.call { code := 3 }) = .ok .step ∧
      decode (.call { code := 4 }) = .ok .run ∧ decode (.call { code := 5 }) = .ok .finalize := by decide
theorem test_decode_unassigned :
    decode (.call { code := 0 }) = .error (.unassignedCode 0) ∧
      decode (.call { code := 6 }) = .error (.unassignedCode 6) ∧
      decode (.call { code := 255 }) = .error (.unassignedCode 255) := by decide
theorem test_decode_cut_short : decode (.decisions [true, true, false]) = .error .outOfDecisions := by decide

/-- The match words of spec/opcode_table.json; MATCH and EOS share one. -/
theorem test_table_words :
    [0x00, 0x10, 0x18, 0x1A, 0x1C, 0x1E, 0x1F].map (decodeTableWord 8) =
      [some (.lit 0), some (.newMatch 2 0), some .shortRep, some (.longRep0 2), some (.longRep1 2),
       some (.longRep2 2), some (.longRep3 2)] ∧
    [1, 2, 3, 4, 5].map (decodeTableWord 8) =
      [some (.configure 0 0 .unbounded), some .init, some .step, some .run, some .finalize] := by decide

/-- Each kind's code interval at its lower end (95_test_vectors.md 2.5, K1 to K7). -/
theorem test_window_codes :
    [0x00, 0x10, 0x18, 0x1A, 0x1C, 0x1E, 0x1F].map windowCode =
      [0x00000000, 0x7FFFFC00, 0xBFFFFC00, 0xCFFFFC00, 0xDFFFFC00, 0xEFFFFC00, 0xF7FFFC00] := by decide

/-! ## The range decoder (95_test_vectors.md 2.2, 2.3) -/

/-- B3: `code = bound` gives 1. -/
theorem test_decodeBit_at_bound :
    (match decodeBit (.isRep 0) (running 0x7FFFFC00 []) with
      | .ok b t => (b, t.range, t.code, getProb (.isRep 0) t.probs) == (true, 0x800003FF, 0, 992)
      | .fail _ _ => false) = true := by decide
/-- B4: one byte is read. -/
theorem test_decodeBit_reads_a_byte :
    (match decodeBit (.isRep 0) { running 0x00FFFFFF [0, 0, 0, 0, 0, 0xAB] with range := 0x01000000 } with
      | .ok b t => (b, t.range, t.code, t.cursor) == (true, 0x80000000, 0x7FFFFFAB, 6)
      | .fail _ _ => false) = true := by decide
/-- C1: two direct bits, 0b10. -/
theorem test_direct_bits :
    (match runFetch (directBits 2) { running 0x40000000 [] with range := 0x80000000 } with
      | .ok v t => (v, t.range, t.code) == (2, 0x20000000, 0)
      | .fail _ _ => false) = true := by decide
/-- T5: forward 21, reverse 42 from one input. -/
theorem test_bit_trees :
    (match runFetch (bitTree (fun m => .posSlot 0 (Fin.ofNat 64 m)) 6) (running 0x55555555 []),
        runFetch (bitTreeRev (fun m => .posSlot 0 (Fin.ofNat 64 m)) 6) (running 0x55555555 []) with
      | .ok v t, .ok w _ => (v, w, t.range, t.code) == (21, 42, 0x04000000, 0x01555955)
      | _, _ => false) = true := by decide
/-- N7: length 273, `posState` 1. -/
theorem test_length_273 :
    (match runFetch (lenField .lenDec 1) (running 0xFFFFFFFE [0, 0, 0, 0, 0, 0]) with
      | .ok v t => (v, t.range, t.code) == (273, 0x40020300, 0x40020200)
      | .fail _ _ => false) = true := by decide
/-- D-18: slot 56, 23 direct bits and align. -/
theorem test_distance_direct :
    (match runFetch (distField 2) (running 0xE0000000 [0, 0, 0, 0, 0, 0x80, 0x80, 0x80, 0x80]) with
      | .ok v t => (v, t.range, t.code, t.cursor) == (0x10000808, 0x80000000, 0x00808080, 9)
      | .fail _ _ => false) = true := by decide
/-- The slots of the matched literal 0x77 against 0x77 (42_state_machine.md R201). -/
theorem test_matched_literal_slots :
    fetchSlots (literalField 0 (.matched 0x77)) [false, true, true, true, false, true, true, true] =
      [0x101, 0x202, 0x205, 0x20B, 0x117, 0x22E, 0x25D, 0x2BB].map (literalSlot 0) := by decide
/-- L10: the plain tail after a difference in the fifth bit. -/
theorem test_matched_literal_tail :
    fetchSlots (literalField 0 (.matched 0x77)) [false, true, true, true, true, false, false, false] =
      [0x101, 0x202, 0x205, 0x20B, 0x117, 47, 94, 188].map (literalSlot 0) := by decide
/-- The example of 42_state_machine.md R200, and 43_length_distance.md R241's: slot 4 asks `specPos[1]`. -/
theorem test_symbol_slots :
    (literalSlots Context.plain 0x61).map Prod.fst = [1, 2, 5, 11, 22, 44, 88, 176].map (literalSlot 0) ∧
      (distSlots 2 4).drop 6 = [(.specPos 1, false)] := by decide
/-- F5a (95_test_vectors.md 4): after the failure the host sees the cursor and the two slots that were decoded. -/
theorem test_diagnosis :
    (hostView (stepEffect (running 0xFFFFFFF0 [0, 0xFF, 0xFF, 0xFF, 0xF0]))).diagnosis.map
        (fun d => (d.cursor, getProb (.isMatch 0 0) d.probs, getProb (.isRep 0) d.probs,
          getProb (.isRepG0 0) d.probs)) = some (5, 992, 992, 1024) ∧
      (hostView p1).diagnosis = none := by decide
/-- L6 and L5: `litState` (95_test_vectors.md 2.7). -/
theorem test_litState :
    litState { State.reset with lc := 8, lp := 4, out := List.replicate 12 0 ++ [0xC3] } = 3523 ∧
      litState { State.reset with lc := 0, lp := 2, out := [1, 2, 3, 4, 5, 0x12] } = 2 := by decide
/-- 10_state.md R60: the last slot of `lc + lp = 12` closes 1847 + 768 * 4096 slots. -/
theorem test_slot_numbers :
    slotAddr (.isMatch 0 0) = 0 ∧ slotAddr (.posSlot 0 0) = 432 ∧ slotAddr (.high .repLenDec 255) = 1846 ∧
      slotAddr (.literal 4095 767) = 1847 + 768 * 4096 - 1 := by decide
/-- The codes the host reads (10_state.md R38, 60_exceptions.md R340). -/
theorem test_codes :
    statusCode .failed = 5 ∧ failCode none = 0 ∧ failCode (some .distanceExceedsDictionary) = 10 := by decide

/-! ## Instructions -/

/-- P1 STEP 1: 'a'. -/
theorem test_step_lit :
    (fun t : State => (t.out, t.range, t.code, t.cursor, t.remaining)) (stepEffect p1) =
      ([0x61], 0x80000000, 0x18A10000, 6, 4) := by decide
/-- P1 to its end, "abbbb" (RUN), with the overlapping MATCH 3, 0. -/
theorem test_run_p1 :
    (fun t : State => (t.out, t.code, t.cursor, t.lzmaState, t.status, t.doneReason)) (after (exec .run p1)) =
      ([0x61, 0x62, 0x62, 0x62, 0x62], 0, 8, 7, .done, some .sizeReached) := by decide
theorem test_lit_after_match :
    (fun t : State => (t.out, t.lzmaState, t.remaining)) (after (exec (.lit 0x21) mid)) =
      ([0x77, 0x78, 0x79, 0x7A, 0x21], 4, 5) := by decide
/-- W7: `w x y z` and WinCopy(3, 4). -/
theorem test_match_copies :
    (fun t : State => (t.out, t.rep0, t.rep1, t.rep2, t.rep3, t.lzmaState, t.remaining))
      (after (exec (.newMatch 4 3) mid)) =
      ([0x77, 0x78, 0x79, 0x7A, 0x77, 0x78, 0x79, 0x7A], 3, 3, 1, 0, 10, 2) := by decide
/-- F11: distance 3 with a dictionary of 3. -/
theorem test_match_beyond_dictionary :
    after (exec (.newMatch 4 3) { mid with dictionarySize := 3 }) =
      raiseFail .distanceExceedsDictionary { mid with dictionarySize := 3 } := by decide
theorem test_eos_unbounded :
    (fun t : State => (t.status, t.doneReason)) (after (exec (.eos 2) { mid with bounded := false })) =
      (.done, some .endMarker) := by decide
theorem test_eos_bounded : (after (exec (.eos 2) mid)).errKind = some .prematureEndMarker := by decide
theorem test_shortRep :
    (fun t : State => (t.out, t.lzmaState, t.rep0)) (after (exec .shortRep mid)) =
      ([0x77, 0x78, 0x79, 0x7A, 0x77], 11, 3) := by decide
theorem test_longRep0 :
    (fun t : State => (t.out, t.rep0, t.rep1)) (after (exec (.longRep0 2) mid)) =
      ([0x77, 0x78, 0x79, 0x7A, 0x77, 0x78], 3, 1) := by decide
theorem test_longRep1 :
    (fun t : State => (t.out, t.rep0, t.rep1, t.rep2, t.rep3)) (after (exec (.longRep1 3) mid)) =
      ([0x77, 0x78, 0x79, 0x7A, 0x79, 0x7A, 0x79], 1, 3, 0, 2) := by decide
theorem test_longRep2 :
    (fun t : State => (t.out, t.rep0, t.rep1, t.rep2, t.rep3)) (after (exec (.longRep2 2) mid)) =
      ([0x77, 0x78, 0x79, 0x7A, 0x7A, 0x7A], 0, 3, 1, 2) := by decide
theorem test_longRep3 :
    (fun t : State => (t.out, t.rep0, t.rep1, t.rep2, t.rep3)) (after (exec (.longRep3 2) mid)) =
      ([0x77, 0x78, 0x79, 0x7A, 0x78, 0x79], 2, 3, 1, 0) := by decide
/-- F8: a LONGREP longer than `remaining`. -/
theorem test_longRep_too_long :
    (after (exec (.longRep3 7) mid)).errKind = some .repeatLengthExceedsRemaining := by decide
/-- 46_host_commands.md R321: 93 is lc 3, lp 0, pb 2; 224 is 8, 4, 4. -/
theorem test_configure :
    (fun t : State => (t.lc, t.lp, t.pb, t.status, t.remaining))
      (after (exec (.configure 93 65536 (.bounded 5)) State.reset)) = (3, 0, 2, .configured, 5) ∧
    propsDecode 224 = (8, 4, 4) := by decide
/-- F1. -/
theorem test_configure_225 :
    (after (exec (.configure 225 65536 (.bounded 5)) State.reset)).errKind = some .invalidProperties := by decide
/-- 40_range_decoder.md R140: input `00 30 98 9D 00`. -/
theorem test_init :
    (fun t : State => (t.code, t.range, t.cursor, t.status))
      (after (exec .init { State.reset with status := .configured, inp := [0x00, 0x30, 0x98, 0x9D, 0x00] })) =
      (0x30989D00, 0xFFFFFFFF, 5, .running) := by decide
/-- F2: four bytes. -/
theorem test_init_short :
    (fun t : State => (t.errKind, t.cursor))
      (after (exec .init { State.reset with status := .configured, inp := [0x00, 0x30, 0x98, 0x9D] })) =
      (some .rangeDecoderInitFailure, 0) := by decide
/-- F9. -/
theorem test_step_before_init :
    (after (exec .step { p1 with status := .configured })).errKind = some .uninitializedDecoder := by decide
/-- F7 and the end of P1. -/
theorem test_finalize :
    (after (exec .finalize { p1 with status := .done, code := 0x03136680 })).errKind =
        some .rangeDecoderResidualError ∧
      (after (exec .finalize { p1 with status := .done, code := 0 })).status = .verified := by decide
/-- F16: a second CONFIGURE is refused. -/
theorem test_configure_twice :
    after (exec (.configure 0 0 .unbounded) p1) = { p1 with response := some .refused } := by decide
/-- 46_host_commands.md R326: code 6. -/
theorem test_unassigned_code :
    after (step { p1 with calls := [{ code := 6 }] }) = { p1 with response := some .refused } := by decide
/-- The step runs what `withFetchWord` places: LONGREP3 of length 2 on the one byte of output. -/
theorem test_withFetchWord :
    (after (step (State.reset.withFetchWord 8 0x1F))).out = [0, 0, 0] ∧
      (after (step (State.reset.withFetchWord 8 0x00))).out = [0] ∧
      (after (step (State.reset.withFetchWord 8 0x01))).status = .configured := by decide

/-! ## Witnesses: states and operands that meet the hypotheses of the statements, together -/

theorem witness_StepKeepsInvariant : Inv p1 ∧ ∃ t, step { p1 with calls := [{ code := 3 }] } = .next t := by
  refine ⟨?_, _, rfl⟩
  constructor <;> decide
theorem witness_StepKeepsInvariant_mid : Inv { mid with calls := [{ code := 4 }] } := by
  constructor <;> decide
theorem witness_DecodeEncode : (Instr.newMatch 273 0xFFFFFFFE).wf = true := by decide
/-- Clause 1: in the middle of a stream, and at the first symbol of one. Clause 2: each kind that a context fails. -/
theorem witness_SymbolReadInEveryContext :
    ((Symbol.newMatch 2 0x80).wf = true ∧ contextCheck (contextOf mid) (.longRep3 2) = none ∧
      contextCheck (contextOf p1) (.lit 0x61) = none ∧ contextCheck (contextOf p1) (.newMatch 2 0x80) = none) ∧
    (contextCheck (contextOf p1) .shortRep = some .emptyWindow ∧
      contextCheck (contextOf { mid with rep1 := 4 }) (.longRep1 2) = some .insufficientHistoryForRepeat ∧
      contextCheck (contextOf { mid with rep0 := 4 }) (.lit 0) = some .insufficientHistoryForRepeat ∧
      (Symbol.longRep1 2).wf = true) := by decide
theorem witness_EncodingIsUnique : decodeSymbol [true, true, false, false, true] = .ok (.shortRep, [true]) := by decide
theorem witness_EveryDecisionSequenceDecodes : 48 ≤ (List.replicate 48 true).length := by decide
theorem witness_DecisionCounts : 2 ≤ 273 ∧ 273 ≤ 273 ∧ (Symbol.newMatch 273 0xC0000000).wf = true := by decide
theorem witness_CommandCodes :
    (∃ c : Call, c.code.toNat = 0 ∧ ({ p1 with calls := [c] } : State).calls = c :: []) ∧
      (∃ c : Call, 6 ≤ c.code.toNat ∧ ({ p1 with calls := [c] } : State).calls = c :: []) :=
  ⟨⟨{ code := 0 }, by decide, rfl⟩, ⟨{ code := 6 }, by decide, rfl⟩⟩
theorem witness_StepRunsNextCommand :
    ({ p1 with calls := [{ code := 3 }] } : State).calls = { code := 3 } :: [] ∧
      decodeCall { code := 3 } = .ok .step ∧ p1.calls = [] := by decide
theorem witness_StepRunsFetchedSymbol :
    p1.status = .running ∧ ¬ (p1.bounded = true ∧ p1.remaining = 0) ∧
      ∃ t, fetchSymbol { p1 with response := some .ok } = .ok (.lit 0x61) t := by
  refine ⟨by decide, by decide, (fetchSymbol { p1 with response := some .ok }).state, by decide⟩
theorem witness_StepInEveryStatus :
    State.reset.status = .unconfigured ∧ ({ p1 with status := .verified } : State).status = .verified ∧
      (p1.status = .running ∧ ({ p1 with remaining := 0 } : State).bounded = true) ∧
      ∃ t, fetchSymbol { p1 with inp := [], response := some .ok } = .fail .rangeDecoderInitFailure t :=
  ⟨by decide, by decide, by decide, (fetchSymbol { p1 with inp := [], response := some .ok }).state, by decide⟩
/-- F5a: prefix 11 on an empty output. -/
theorem witness_RepPathNeedsOutput :
    ∃ s s1 s2 : State, s.produced = 0 ∧ decodeBit (.isMatch s.lzmaState (posState s)) s = .ok true s1 ∧
      decodeBit (.isRep s.lzmaState) s1 = .ok true s2 :=
  ⟨running 0xFFFFFFF0 [], (decodeBit (.isMatch 0 0) (running 0xFFFFFFF0 [])).state,
    (decodeBit (.isRep 0) (decodeBit (.isMatch 0 0) (running 0xFFFFFFF0 [])).state).state,
    by decide, by decide, by decide⟩
/-- One byte of output, and a code whose prefix is 1100 (95_test_vectors.md K3). -/
def rep0 : State := { running 0xBFFFFC00 [] with out := [0x61] }
def rep1 : State := (decodeBit (.isMatch 0 1) rep0).state
def rep2 : State := (decodeBit (.isRep 0) rep1).state
def rep3 : State := (decodeBit (.isRepG0 0) rep2).state
/-- As P2's STEP 4: a rep before any MATCH. -/
theorem witness_RepPathNeedsOutput_with_output :
    rep0.produced ≠ 0 ∧ decodeBit (.isMatch rep0.lzmaState (posState rep0)) rep0 = .ok true rep1 ∧
      decodeBit (.isRep rep0.lzmaState) rep1 = .ok true rep2 ∧
      decodeBit (.isRepG0 rep0.lzmaState) rep2 = .ok false rep3 ∧
      ∃ t, decodeBit (.isRep0Long rep0.lzmaState (posState rep0)) rep3 = .ok false t :=
  ⟨by decide, by decide, by decide, by decide, (decodeBit (.isRep0Long 0 1) rep3).state, by decide⟩
/-- The same with `range = 2^26`: the third decision wants a byte that is not there. -/
def short0 : State := { running 0x03FFFFFF [] with out := [0x61], range := 0x04000000 }
def short1 : State := (decodeBit (.isMatch 0 1) short0).state
def short2 : State := (decodeBit (.isRep 0) short1).state
theorem witness_RepPathNeedsOutput_input_ends :
    short0.produced ≠ 0 ∧ decodeBit (.isMatch short0.lzmaState (posState short0)) short0 = .ok true short1 ∧
      decodeBit (.isRep short0.lzmaState) short1 = .ok true short2 ∧
      ∃ t, decodeBit (.isRepG0 short0.lzmaState) short2 = .fail .rangeDecoderInitFailure t :=
  ⟨by decide, by decide, by decide, (decodeBit (.isRepG0 0) short2).state, by decide⟩
theorem witness_RunRepeatsStep :
    State.reset.status = .unconfigured ∧ p1.status ≠ .unconfigured ∧ p1.status ≠ .configured ∧
      ∃ t, exec .run p1 = .next t := ⟨by decide, by decide, by decide, exists_next (by decide)⟩
theorem witness_RunEndsWithinBound : Inv p1 ∧ p1.status = .running :=
  ⟨witness_StepKeepsInvariant.1, rfl⟩
theorem witness_FailedIsForEver :
    ({ p1 with status := .failed, calls := [{ code := 4 }] } : State).status = .failed := by decide
theorem witness_FailedStepCommitsNothing :
    ∃ t, exec .step { p1 with inp := [] } = .next t ∧ t.status = .failed := ⟨_, rfl, by decide⟩
theorem witness_CommandAcceptance :
    p1.status ≠ .unconfigured ∧ p1.status ≠ .configured ∧ p1.status ≠ .done ∧
      ({ p1 with status := .configured } : State).status = .configured ∧
      ({ p1 with status := .done } : State).status = .done := by decide
theorem witness_ConfigureCompletes :
    State.reset.status = .unconfigured ∧ (224 : Byte).toNat < 225 ∧
      SizeMode.bounded 5 = SizeMode.bounded 5 ∧ SizeMode.unbounded = SizeMode.unbounded := by decide
theorem witness_ConfigureRejectsProperties :
    State.reset.status = .unconfigured ∧ 225 ≤ (225 : Byte).toNat ∧ (224 : Byte).toNat ≤ 224 := by decide
theorem witness_PropsDecodeInverts : (224 : Byte).toNat ≤ 224 := by decide
theorem witness_InitReadsFiveBytes :
    p1.status ≠ .configured ∧
    (let s : State := { State.reset with status := .configured, inp := [0, 0x30, 0x98, 0x9D, 0] };
      s.status = .configured ∧ s.inp.drop s.cursor = 0 :: 0x30 :: 0x98 :: 0x9D :: 0 :: [] ∧
        (0x30989D00 : U32).toNat = 0x30 * 2 ^ 24 + 0x98 * 2 ^ 16 + 0x9D * 2 ^ 8 + 0 ∧
        ¬ (s.initCodeCheck = .reject ∧ (0x30989D00 : U32) = 0xFFFFFFFF)) ∧
    (let s : State := { State.reset with
        status := .configured, inp := [0, 0xFF, 0xFF, 0xFF, 0xFF], initCodeCheck := .reject };
      s.status = .configured ∧ s.inp.drop s.cursor = 0 :: 0xFF :: 0xFF :: 0xFF :: 0xFF :: [] ∧
        (0xFFFFFFFF : U32).toNat = 0xFF * 2 ^ 24 + 0xFF * 2 ^ 16 + 0xFF * 2 ^ 8 + 0xFF ∧
        s.initCodeCheck = .reject) ∧
    (let s : State := { State.reset with status := .configured, inp := [0, 0x30, 0x98, 0x9D] };
      s.inp.length < s.cursor + 5) := by decide
theorem witness_FinalizeChecksResidual :
    p1.status ≠ .done ∧
    (let s : State := { p1 with status := .done, code := 0 };
      s.status = .done ∧ s.code = 0) ∧
    (let s : State := { p1 with status := .done, code := 1 };
      s.status = .done ∧ s.code ≠ 0) := by decide
theorem witness_LitAppendsByte :
    (4 : LzmaState).val = (if mid.lzmaState.val < 4 then 0 else if mid.lzmaState.val < 10 then mid.lzmaState.val - 3
      else mid.lzmaState.val - 6) := by decide
theorem witness_MatchCompletes : CopyAllowed 3 6 mid ∧ CopyAllowed 0 273 { mid with bounded := false } := by
  constructor <;> (unfold CopyAllowed; decide)
theorem witness_MatchFailures :
    p1.produced = 0 ∧ (0 < mid.produced ∧ mid.produced ≤ (4 : U32).toNat) ∧
      ((3 : U32).toNat < ({ mid with dictionarySize := 3 } : State).produced ∧
        ({ mid with dictionarySize := 3 } : State).dictionarySize ≤ 3) ∧
      ((3 : U32).toNat < mid.produced ∧ 3 < mid.dictionarySize ∧ mid.bounded = true ∧ mid.remaining.toNat < 7) := by
  decide
theorem witness_EosEndsStream : ({ mid with bounded := false } : State).bounded = false ∧ mid.bounded = true := by
  decide
theorem witness_ShortRepCompletes : mid.rep0.toNat < mid.produced ∧ mid.rep0 < mid.dictionarySize := by decide
theorem witness_LongRepCompletes :
    CopyAllowed mid.rep0 6 mid ∧ CopyAllowed mid.rep1 2 mid ∧ CopyAllowed mid.rep2 6 mid ∧
      CopyAllowed mid.rep3 3 mid := by
  refine ⟨?_, ?_, ?_, ?_⟩ <;> (unfold CopyAllowed; decide)
theorem witness_RepFailures :
    (Instr.longRep3 7 = .longRep3 7 ∧ mid.rep3 = mid.rep3) ∧ p1.produced = 0 ∧
      (0 < mid.produced ∧ ({ mid with rep3 := 4 } : State).produced ≤ ({ mid with rep3 := 4 } : State).rep3.toNat) ∧
      (mid.rep3.toNat < mid.produced ∧ ({ mid with dictionarySize := 0 } : State).dictionarySize ≤ mid.rep3) ∧
      (Instr.longRep3 7 ≠ .shortRep ∧ mid.rep3 < mid.dictionarySize ∧ mid.bounded = true ∧
        mid.remaining.toNat < 7) := by decide
theorem witness_StoringSymbolFrame :
    ∃ y : Symbol, (∀ len, y ≠ .eos len) ∧ ∃ t, exec y.toInstr mid = .next t :=
  ⟨.longRep1 3, by simp, _, rfl⟩
theorem witness_EosFrame : ∃ t, exec (.eos 2) mid = .next t := ⟨_, rfl⟩
theorem witness_TransitionTable : ∃ t, exec (.eos 273) mid = .next t := ⟨_, rfl⟩
theorem witness_WinCopyIsPeriodic : (3 : U32).toNat < mid.produced := by decide
theorem witness_CheckDistOrder :
    p1.produced = 0 ∧ (0 < mid.produced ∧ mid.produced ≤ (4 : U32).toNat) ∧
      ((3 : U32).toNat < mid.produced ∧ ({ mid with dictionarySize := 3 } : State).dictionarySize ≤ 3) ∧
      3 < mid.dictionarySize := by decide
theorem witness_WindowIsAppendOnly : ∃ t, step { p1 with calls := [{ code := 3 }] } = .next t := ⟨_, rfl⟩
theorem witness_ReadByteAdvances :
    p1.cursor < p1.inp.length ∧ ({ p1 with cursor := 8 } : State).cursor = p1.inp.length := by decide
theorem witness_NormalizeOneByte :
    2 ^ 24 ≤ ({ p1 with range := 0x01000000 } : State).range.toNat ∧
      (({ p1 with range := 0x00FFFFFF } : State).range.toNat < 2 ^ 24 ∧ p1.inp.read p1.cursor = some 0) ∧
      ({ p1 with range := 0x00FFFFFF, inp := [] ++ [0, 0, 0, 0, 0] } : State).cursor = 5 := by decide
theorem witness_DecodeBitExact :
    probWf p1.probs = true ∧ 1024 = (getProb (.isRep 0) p1.probs).toNat ∧
      0x7FFFFC00 = p1.range.toNat / 2048 * 1024 ∧ p1.code.toNat < 0x7FFFFC00 ∧
      0x7FFFFC00 ≤ ({ p1 with code := 0x7FFFFC00 } : State).code.toNat := by decide
theorem witness_ProbabilityBounds : 31 ≤ (31 : Prob).toNat ∧ (31 : Prob).toNat ≤ 2017 := by decide
theorem witness_DirectBitHalves :
    p1.code.toNat < p1.range.toNat / 2 ∧
      ({ p1 with code := 0x7FFFFFFF } : State).range.toNat / 2 ≤ ({ p1 with code := 0x7FFFFFFF } : State).code.toNat := by
  decide
theorem witness_BitOrderOfFields : 0x3FFFFFF < 2 ^ 26 := by decide
theorem witness_RangeStaysNormalized :
    ProbsInv p1 ∧ 2 ^ 24 ≤ p1.range.toNat ∧ ∃ b t, takeDecision .direct p1 = .ok b t :=
  ⟨by decide, by decide, _, _, rfl⟩
theorem witness_CodeStaysBelowRange :
    (p1.code < p1.range ∧ (∃ b t, decodeBit (.isRep 0) p1 = .ok b t) ∧ (∃ b t, decodeDirectBit p1 = .ok b t) ∧
      ¬ (p1.range.toNat % 2 = 1 ∧ p1.code.toNat = p1.range.toNat - 1)) ∧
    (let s : State := { p1 with code := 0xFFFFFFFE };
      s.code < s.range ∧ s.range.toNat % 2 = 1 ∧ s.code.toNat = s.range.toNat - 1) :=
  ⟨⟨by decide, ⟨_, _, rfl⟩, ⟨_, _, rfl⟩, by decide⟩, by decide⟩
theorem witness_CodeAboveRangeDecodesOne :
    (running 0xFFFFFFFF []).range ≤ (running 0xFFFFFFFF []).code ∧
      ∃ b t, decodeBit (.isRep 0) (running 0xFFFFFFFF []) = .ok b t := ⟨by decide, _, _, rfl⟩
theorem witness_BytesPerSymbol : ∃ t, fetchSymbol p1 = .ok (.lit 0x61) t :=
  ⟨(fetchSymbol p1).state, by decide⟩
theorem witness_StoreFormIsCanonical :
    probWf [(0, 1056), (192, 992)] = true ∧ ∀ n, probAt [(0, 1056), (192, 992)] n = probAt [(0, 1056), (192, 992)] n :=
  ⟨by decide, fun _ => rfl⟩
theorem witness_InputIsReadOnlyAndForward : ∃ t, step { p1 with calls := [{ code := 3 }] } = .next t := ⟨_, rfl⟩
theorem witness_ConfigurationIsFixed :
    p1.status ≠ .unconfigured ∧ ∃ t, step { p1 with calls := [{ code := 3 }] } = .next t := ⟨by decide, _, rfl⟩
theorem witness_StatusOnlyAdvances :
    ∃ s t : State, step s = .next t ∧ s.status = .done ∧ t.status = .verified :=
  ⟨{ p1 with status := .done, code := 0, calls := [{ code := 5 }] }, _, rfl, by decide, by decide⟩
theorem witness_StatusOnlyAdvances_terminal :
    (∃ t, step { p1 with status := .verified, calls := [{ code := 5 }] } = .next t) ∧
      ∃ t, step { p1 with status := .failed, calls := [{ code := 1 }] } = .next t := ⟨⟨_, rfl⟩, _, rfl⟩
theorem witness_ProducedPlusRemaining :
    p1.status ≠ .unconfigured ∧ p1.bounded = true ∧ ∃ t, step { p1 with calls := [{ code := 3 }] } = .next t :=
  ⟨by decide, by decide, _, rfl⟩
theorem witness_TrailingInputIsIgnored :
    ∃ t, exec .step p1 = .next t ∧ t.errKind ≠ some .rangeDecoderInitFailure := ⟨_, rfl, by decide⟩
/-- INIT that rejects its code, and a session that has run out of input before. -/
theorem witness_TrailingInputIsIgnored_kept :
    (∃ s t : State, exec .init s = .next t ∧ t.errKind = some .rangeDecoderInitFailure ∧
      s.cursor + 5 ≤ s.inp.length) ∧
    ∃ s t : State, exec .step s = .next t ∧ t.errKind = some .rangeDecoderInitFailure ∧ s.status = .failed :=
  ⟨⟨{ State.reset with status := .configured, inp := [0, 0xFF, 0xFF, 0xFF, 0xFF], initCodeCheck := .reject }, _, rfl,
    by decide, by decide⟩,
   ⟨{ p1 with status := .failed, errKind := some .rangeDecoderInitFailure }, _, rfl, by decide, by decide⟩⟩
theorem witness_ResetRangeAndCodeAreHidden :
    ∃ s t : State, s.status = .configured ∧ decodeCall { code := 2 } = .ok .init ∧ exec .init s = .next t ∧
      t.status = .running :=
  ⟨{ State.reset with status := .configured, inp := [0, 0x30, 0x98, 0x9D, 0] }, _, by decide, by decide, rfl,
    by decide⟩
/-- STEP before CONFIGURE: a failure with a diagnosis. -/
theorem witness_ResetRangeAndCodeAreHidden_failure :
    ∃ t : State, State.reset.status = .unconfigured ∧ decodeCall { code := 3 } = .ok .step ∧
      exec .step State.reset = .next t ∧ (hostView t).diagnosis ≠ none := ⟨_, by decide, by decide, rfl, by decide⟩
theorem witness_HostReads :
    (p1.status ≠ .failed ∧ ({ p1 with range := 1, cursor := 0, rep0 := 7 } : State).status = p1.status) ∧
      ∃ t, ({ p1 with status := .failed, calls := [{ code := 3 }] } : State).status = .failed ∧
        step { p1 with status := .failed, calls := [{ code := 3 }] } = .next t := ⟨by decide, _, by decide, rfl⟩
/-- An empty output; a last byte; `state` 0, 7 with and without the byte at rep0. -/
theorem witness_ContextOfASymbol :
    p1.produced = 0 ∧ mid.out.getLast? = some 0x7A ∧ p1.lzmaState.val < 7 ∧
      (7 ≤ mid.lzmaState.val ∧ mid.rep0.toNat < mid.produced ∧
        mid.out.read (mid.produced - mid.rep0.toNat - 1) = some 0x77) ∧
      (7 ≤ ({ mid with rep0 := 4 } : State).lzmaState.val ∧
        ({ mid with rep0 := 4 } : State).produced ≤ ({ mid with rep0 := 4 } : State).rep0.toNat) := by decide
theorem witness_SlotsOfASymbol :
    ((Symbol.newMatch 273 0xFFFFFFFE).wf = true ∧ contextCheck (contextOf p1) (.newMatch 273 0xFFFFFFFE) = none) ∧
      (probWf p1.probs = true ∧ ∃ t, fetchSymbol p1 = .ok (.lit 0x61) t) ∧
      .isRep 0 ∉ (symbolSlots (contextOf p1) (.lit 0x61)).map Prod.fst ∧
      (.isMatch 0 0, false) ∈ symbolSlots (contextOf p1) (.lit 0x61) :=
  ⟨by decide, ⟨by decide, (fetchSymbol p1).state, by decide⟩, by decide, by decide⟩

end Sys2Proof.Tests
end

/-! ## Slots and the canonical store (10_state.md R44, R57) -/

namespace Sys2Proof.Machine

/-- The values R57 allows a slot. -/
def SlotBounds (p : Prob) : Prop := 31 ≤ p.toNat ∧ p.toNat ≤ 2017

/-- The update of a decision 0 does not wrap (40_range_decoder.md R142). -/
theorem probUp_toNat (p : Prob) : (probUp p).toNat = p.toNat + (2048 - p.toNat) / 32 := by
  have hp := p.isLt
  simp only [probUp, Config.moveBits, BitVec.toNat_ofNat, Nat.shiftRight_eq_div_pow]
  omega

/-- The update of a decision 1 does not wrap (40_range_decoder.md R142). -/
theorem probDown_toNat (p : Prob) : (probDown p).toNat = p.toNat - p.toNat / 32 := by
  have hp := p.isLt
  simp only [probDown, Config.moveBits, BitVec.toNat_sub, BitVec.toNat_ushiftRight, Nat.shiftRight_eq_div_pow]
  omega

theorem SlotBounds.probUp {p : Prob} (h : SlotBounds p) : SlotBounds (probUp p) := by
  unfold SlotBounds at *
  rw [probUp_toNat]
  omega

theorem SlotBounds.probDown {p : Prob} (h : SlotBounds p) : SlotBounds (probDown p) := by
  unfold SlotBounds at *
  rw [probDown_toNat]
  omega

/-- 126 like decisions in six stretches, each short enough to compute. -/
theorem iterate_stretches (f : Prob → Prob) (p : Prob) :
    f^[126] p = f^[21] (f^[21] (f^[21] (f^[21] (f^[21] (f^[21] p))))) := by
  simp only [← Function.iterate_add_apply]

theorem probUp_iterate_126 : probUp^[126] 1024 = 2016 := by
  have stretch1 : probUp^[21] 1024 = 1516 := by decide
  have stretch2 : probUp^[21] 1516 = 1768 := by decide
  have stretch3 : probUp^[21] 1768 = 1897 := by decide
  have stretch4 : probUp^[21] 1897 = 1962 := by decide
  have stretch5 : probUp^[21] 1962 = 1995 := by decide
  have stretch6 : probUp^[21] 1995 = 2016 := by decide
  rw [iterate_stretches, stretch1, stretch2, stretch3, stretch4, stretch5, stretch6]

theorem probDown_iterate_126 : probDown^[126] 1024 = 32 := by
  have stretch1 : probDown^[21] 1024 = 532 := by decide
  have stretch2 : probDown^[21] 532 = 280 := by decide
  have stretch3 : probDown^[21] 280 = 151 := by decide
  have stretch4 : probDown^[21] 151 = 86 := by decide
  have stretch5 : probDown^[21] 86 = 53 := by decide
  have stretch6 : probDown^[21] 53 = 32 := by decide
  rw [iterate_stretches, stretch1, stretch2, stretch3, stretch4, stretch5, stretch6]

/-- Settles O42: neither update wraps, so the bounds are linear arithmetic; the counts are computed. -/
theorem probabilityBounds : Obligations.ProbabilityBounds := by
  unfold Obligations.ProbabilityBounds
  rw [Function.iterate_succ_apply' probUp 126, Function.iterate_succ_apply' probDown 126, probUp_iterate_126,
    probDown_iterate_126]
  exact ⟨fun p hp => ⟨SlotBounds.probUp hp, SlotBounds.probDown hp⟩, by decide⟩

/-- Settles O1: the reset state is written out. -/
theorem resetValues : Obligations.ResetValues := by
  unfold Obligations.ResetValues
  decide

/-- A well-formed store lists a number only from its lower bound on, so a value that is not `PROB_INIT` is read there. -/
theorem le_of_probAt_ne {st : ProbStore} {lo n : Nat} (h : probWfFrom lo st = true)
    (hne : probAt st n ≠ Config.probInit) : lo ≤ n :=
  Nat.le_of_not_lt fun hlt => hne (probAt_of_lt h hlt)

@[simp] theorem probAt_head (a : Nat) (v : Prob) (st : ProbStore) : probAt ((a, v) :: st) a = v := by
  simp [probAt]

/-- Past its first number a store reads as its tail. -/
theorem probAt_cons_of_lt {a n : Nat} (v : Prob) (st : ProbStore) (h : a < n) :
    probAt ((a, v) :: st) n = probAt st n := by
  simp only [probAt]
  rw [if_neg (by omega), if_neg (by omega)]

theorem probWfFrom_cons {lo a : Nat} {v : Prob} {st : ProbStore} :
    probWfFrom lo ((a, v) :: st) = true ↔ lo ≤ a ∧ v ≠ Config.probInit ∧ probWfFrom (a + 1) st = true := by
  simp only [probWfFrom, Bool.and_eq_true, decide_eq_true_eq, and_assoc]

/-- Stores in their form that read alike have one first number: each one's first value is read in the other. -/
theorem first_le_of_probAt_eq {a b lo lo' : Nat} {v w : Prob} {st st' : ProbStore}
    (h : probWfFrom lo ((a, v) :: st) = true) (h' : probWfFrom lo' ((b, w) :: st') = true)
    (heq : probAt ((b, w) :: st') a = probAt ((a, v) :: st) a) : b ≤ a := by
  obtain ⟨-, hv, -⟩ := probWfFrom_cons.mp h
  obtain ⟨-, hw, ht⟩ := probWfFrom_cons.mp h'
  refine le_of_probAt_ne (probWfFrom_cons.mpr ⟨le_refl b, hw, ht⟩) ?_
  rwa [heq, probAt_head]

/-- Stores in their form, from whatever lower bounds, that read alike are one list. -/
theorem probStore_ext {lo lo' : Nat} {st st' : ProbStore} (h : probWfFrom lo st = true)
    (h' : probWfFrom lo' st' = true) (heq : ∀ n, probAt st n = probAt st' n) : st = st' := by
  induction st generalizing lo lo' st' with
  | nil =>
    cases st' with
    | nil => rfl
    | cons f st' =>
      obtain ⟨b, w⟩ := f
      exact absurd (by simpa [probAt] using (heq b).symm) (probWfFrom_cons.mp h').2.1
  | cons e st ih =>
    obtain ⟨a, v⟩ := e
    obtain ⟨-, hv, ht⟩ := probWfFrom_cons.mp h
    cases st' with
    | nil => exact absurd (by simpa [probAt] using heq a) hv
    | cons f st' =>
      obtain ⟨b, w⟩ := f
      obtain ⟨-, -, ht'⟩ := probWfFrom_cons.mp h'
      obtain rfl : a = b := Nat.le_antisymm (first_le_of_probAt_eq h' h (heq b))
        (first_le_of_probAt_eq h h' (heq a).symm)
      obtain rfl : v = w := by simpa using heq a
      rw [ih ht ht' fun n => ?_]
      rcases Nat.lt_or_ge a n with hn | hn
      · simpa [probAt_cons_of_lt, hn] using heq n
      · rw [probAt_of_lt ht (by omega), probAt_of_lt ht' (by omega)]

/-- Settles O51: by induction on the first list, the heads agreeing because each first number is read in the other. -/
theorem storeFormIsCanonical : Obligations.StoreFormIsCanonical :=
  fun _ _ h h' heq => probStore_ext h h' heq

/-- A slot of a store in bounds reads a value in bounds. -/
theorem getProb_bounds {s : State} (h : ProbsInv s) (slot : Slot) : SlotBounds (getProb slot s.probs) := by
  rcases probAt_mem s.probs (slotAddr slot) with hinit | hmem
  · rw [getProb, hinit]
    unfold SlotBounds
    decide
  · exact h.2 _ hmem

/-- Writing a value in bounds keeps the form and the bounds of the store. -/
theorem setProb_bounds {s : State} (h : ProbsInv s) (slot : Slot) {p : Prob} (hp : SlotBounds p) :
    probWf (setProb slot p s.probs) = true ∧
      ∀ e ∈ setProb slot p s.probs, 31 ≤ e.2.toNat ∧ e.2.toNat ≤ 2017 := by
  refine ⟨probWf_setProb slot p h.1, fun e he => ?_⟩
  rcases mem_probPut he with rfl | he
  · exact hp
  · exact h.2 e he

end Sys2Proof.Machine

/-! ## What the range decoder keeps (40_range_decoder.md R141 to R146) -/

namespace Sys2Proof.Machine

/-- A decoder frame as the four values it may change. -/
theorem DecoderFrame.exists_eq {s t : State} (h : DecoderFrame s t) :
    ∃ r c n p, t = { s with range := r, code := c, cursor := n, probs := p } :=
  ⟨_, _, _, _, h⟩

/-- `bound` in exact arithmetic: the product fits 32 bits (40_range_decoder.md R143). -/
theorem boundOf_toNat (slot : Slot) (s : State) :
    (boundOf slot s).toNat = s.range.toNat / 2048 * (getProb slot s.probs).toNat := by
  have hp := (getProb slot s.probs).isLt
  have hr := s.range.isLt
  have hle : s.range.toNat / 2048 * (getProb slot s.probs).toNat ≤ s.range.toNat / 2048 * 2048 :=
    Nat.mul_le_mul_left _ (by omega)
  have hw : ((getProb slot s.probs).setWidth 32).toNat = (getProb slot s.probs).toNat := by
    rw [BitVec.toNat_setWidth]
    omega
  rw [boundOf, BitVec.toNat_mul, BitVec.toNat_ushiftRight, Nat.shiftRight_eq_div_pow, hw]
  exact Nat.mod_eq_of_lt (Nat.lt_of_le_of_lt hle (by omega))

/-- A slot in bounds leaves both parts of the interval at least 31 of its 2048 parts. -/
theorem boundOf_bounds {s : State} (h : ProbsInv s) (slot : Slot) :
    s.range.toNat / 2048 * 31 ≤ (boundOf slot s).toNat ∧
      (boundOf slot s).toNat + s.range.toNat / 2048 * 31 ≤ s.range.toNat := by
  obtain ⟨hlo, hhi⟩ := getProb_bounds h slot
  have hle := Nat.mul_le_mul_left (s.range.toNat / 2048) hlo
  have hge := Nat.mul_le_mul_left (s.range.toNat / 2048) hhi
  rw [boundOf_toNat]
  omega

/-- Before its Normalize a decision leaves at least 2^16 of the range (40_range_decoder.md R146). -/
theorem decisionState_range {s : State} (hp : ProbsInv s) (hr : Config.top ≤ s.range) (d : Decision) :
    2 ^ 16 ≤ (decisionState d s).range.toNat := by
  have hr' : 2 ^ 24 ≤ s.range.toNat := hr
  cases d with
  | adaptive slot =>
    obtain ⟨hlo, hhi⟩ := boundOf_bounds hp slot
    simp only [decisionState]
    split
    · rw [takeZero_range]
      omega
    · rw [takeOne_range, BitVec.toNat_sub_of_le (BitVec.le_def.mpr (by omega))]
      omega
  | direct =>
    rw [decisionState, takeDirect_range, BitVec.toNat_ushiftRight, Nat.shiftRight_eq_div_pow]
    omega

/-- A shift of a range below 2^24 loses nothing (40_range_decoder.md R141). -/
theorem shiftIn_range_toNat {s : State} (b : Byte) (h : s.range < Config.top) :
    (shiftIn b s).range.toNat = s.range.toNat * 256 := by
  have h' : s.range.toNat < 2 ^ 24 := h
  rw [shiftIn, BitVec.toNat_shiftLeft, Nat.shiftLeft_eq]
  omega

/-- A decision that goes through leaves a range of at least 2^24 (40_range_decoder.md R146). -/
theorem takeDecision_range {d : Decision} {s t : State} {b : Bool} (hp : ProbsInv s) (hr : Config.top ≤ s.range)
    (h : takeDecision d s = .ok b t) : Config.top ≤ t.range := by
  have hmin := decisionState_range hp hr d
  rcases takeDecision_cases d s with ⟨htop, hd⟩ | ⟨hlt, byte, -, -, hd⟩ | ⟨-, -, hd⟩ <;> rw [hd] at h <;> cases h
  · exact htop
  · rw [BitVec.le_def, shiftIn_range_toNat byte hlt]
    show 2 ^ 24 ≤ _
    omega

theorem decisionState_probsInv {s : State} (h : ProbsInv s) (d : Decision) : ProbsInv (decisionState d s) := by
  cases d with
  | adaptive slot =>
    simp only [decisionState]
    split
    · exact setProb_bounds h slot (getProb_bounds h slot).probUp
    · exact setProb_bounds h slot (getProb_bounds h slot).probDown
  | direct => simpa [decisionState, ProbsInv] using h

@[simp] theorem decisionState_inp (d : Decision) (s : State) : (decisionState d s).inp = s.inp := by
  rw [decisionState_frame d s]

@[simp] theorem decisionState_cursor (d : Decision) (s : State) : (decisionState d s).cursor = s.cursor := by
  cases d with
  | adaptive slot => simp only [decisionState]; split <;> simp
  | direct => simp [decisionState]

/-- What any decision keeps, also one that fails for want of a byte (40_range_decoder.md R151): the bounds of the slots and
the cursor within the input. -/
theorem takeDecision_keeps (d : Decision) {s : State} (h : ProbsInv s ∧ CursorInv s) :
    ProbsInv (takeDecision d s).state ∧ CursorInv (takeDecision d s).state := by
  have hp := decisionState_probsInv h.1 d
  have hc : CursorInv (decisionState d s) := by simpa [CursorInv] using h.2
  rcases takeDecision_cases d s with ⟨-, hd⟩ | ⟨-, b, hlt, -, hd⟩ | ⟨-, -, hd⟩ <;> rw [hd]
  · exact ⟨hp, hc⟩
  · exact ⟨hp, by simpa [CursorInv, shiftIn] using hlt⟩
  · exact ⟨hp, hc⟩

/-- The bounds of the slots and the cursor hold wherever a symbol's decoding ends or fails. -/
theorem fetchSymbol_keeps {s : State} (hp : ProbsInv s) (hc : CursorInv s) :
    ProbsInv (fetchSymbol s).state ∧ CursorInv (fetchSymbol s).state :=
  runFetch_keeps (fun s t => ProbsInv s ∧ CursorInv s → ProbsInv t ∧ CursorInv t) (fun _ h => h)
    (fun _ _ _ h h' hs => h' (h hs)) (fun d _ h => takeDecision_keeps d h) _ s ⟨hp, hc⟩

/-- The decoding of a symbol, where it goes through, leaves a range of at least 2^24 (40_range_decoder.md R146). -/
theorem fetchSymbol_range {s t : State} {y : Symbol} (hp : ProbsInv s) (hc : CursorInv s)
    (hr : Config.top ≤ s.range) (h : fetchSymbol s = .ok y t) : Config.top ≤ t.range := by
  refine (runFetch_keeps_ok (fun s => (ProbsInv s ∧ CursorInv s) ∧ Config.top ≤ s.range) ?_ _ ⟨⟨hp, hc⟩, hr⟩ h).2
  rintro d s b t ⟨hs, hr⟩ hd
  have hk := takeDecision_keeps d hs
  rw [hd] at hk
  exact ⟨hk, takeDecision_range hs.1 hr hd⟩

end Sys2Proof.Machine

/-! ## What a step of the machine is made of -/

namespace Sys2Proof.Machine

/-! ### INIT (40_range_decoder.md R140) -/

theorem readByte_of_lt {s : State} (h : s.cursor < s.inp.length) :
    readByte s = .ok s.inp[s.cursor] { s with cursor := s.cursor + 1 } := by
  simp [readByte, Memory.read, h]

/-- Bytes shifted into a code, the first the most significant (20_memory.md R78). -/
def shiftBytes (c : U32) (bytes : List Byte) : U32 := bytes.foldl (fun c b => (c <<< 8) ||| b.setWidth 32) c

/-- With its bytes there, `readCode` shifts them in and moves the cursor. -/
theorem readCode_eq {n : Nat} {s : State} (h : s.cursor + n ≤ s.inp.length) :
    readCode n s =
      .ok () { s with code := shiftBytes s.code ((s.inp.drop s.cursor).take n), cursor := s.cursor + n } := by
  induction n generalizing s with
  | zero => simp [readCode, shiftBytes]
  | succ n ih =>
    have hlt : s.cursor < s.inp.length := by omega
    rw [readCode, readByte_of_lt hlt, Res.andThen_ok, ih (by simp only; omega),
      List.drop_eq_getElem_cons hlt, List.take_succ_cons, shiftBytes, shiftBytes, List.foldl_cons,
      Nat.add_right_comm s.cursor 1 n, Nat.add_assoc s.cursor n 1]

/-- The registers after INIT has read its five bytes (40_range_decoder.md R140). They depend on no old `range` or `code`. -/
def initialized (s : State) : State :=
  { s with range := Config.rangeInit, code := shiftBytes 0 ((s.inp.drop (s.cursor + 1)).take 4),
           cursor := s.cursor + 5 }

theorem rcInit_of_short {s : State} (h : s.inp.length < s.cursor + 5) :
    rcInit s = .fail .rangeDecoderInitFailure s := by
  rw [rcInit, if_pos (by rw [bytesRemaining]; omega)]

theorem rcInit_of_bytes {s : State} (h : s.cursor + 5 ≤ s.inp.length) :
    rcInit s = checkInitCode (initialized s) := by
  rw [rcInit, if_neg (by rw [bytesRemaining]; omega), readByte_of_lt (by omega), Res.andThen_ok,
    readCode_eq (by simp only; omega), Res.andThen_ok]
  rfl

/-- P_INIT_CODE_CHECK rejects the code or does nothing (40_range_decoder.md R140). -/
theorem checkInitCode_cases (s : State) :
    checkInitCode s = .fail .rangeDecoderInitFailure s ∨ checkInitCode s = .ok () s := by
  unfold checkInitCode
  split
  · exact .inl rfl
  · exact .inr rfl

theorem execInit_of_status_ne {s : State} (h : s.status ≠ .configured) : execInit s = .next (refuse s) := by
  simp [execInit, h]

theorem execInit_of_short {s : State} (h : s.status = .configured) (hlen : s.inp.length < s.cursor + 5) :
    execInit s = .next (raiseFail .rangeDecoderInitFailure s) := by
  simp [execInit, h, rcInit_of_short hlen]

/-- With its bytes there, INIT goes by the registers it has written. -/
theorem execInit_of_bytes {s : State} (h : s.status = .configured) (hlen : s.cursor + 5 ≤ s.inp.length) :
    execInit s = .next ((checkInitCode (initialized s)).andThen fun _ s' =>
      .ok () (respondOk { s' with status := .running })).settle := by
  simp [execInit, h, rcInit_of_bytes hlen]

/-! ### The other commands -/

/-- What CONFIGURE can do (46_host_commands.md R320). -/
theorem execConfigure_cases (p : Byte) (d : U32) (m : SizeMode) (s : State) :
    (s.status ≠ .unconfigured ∧ execConfigure p d m s = .next (refuse s)) ∨
    (s.status = .unconfigured ∧ Config.propsLimit ≤ p.toNat ∧
      execConfigure p d m s = .next (raiseFail .invalidProperties s)) ∨
    (s.status = .unconfigured ∧ p.toNat < Config.propsLimit ∧
      execConfigure p d m s = .next (respondOk (setParameters p d m s))) := by
  unfold execConfigure
  by_cases hs : s.status = .unconfigured
  · rcases Nat.lt_or_ge p.toNat Config.propsLimit with hp | hp
    · exact .inr (.inr ⟨hs, hp, by simp [hs, Nat.not_le.mpr hp]⟩)
    · exact .inr (.inl ⟨hs, hp, by simp [hs, hp]⟩)
  · exact .inl ⟨hs, by simp [hs]⟩

/-- What FINALIZE can do (46_host_commands.md R325). -/
theorem execFinalize_cases (s : State) :
    (s.status ≠ .done ∧ execFinalize s = .next (refuse s)) ∨
    (s.status = .done ∧ s.code ≠ 0 ∧ execFinalize s = .next (raiseFail .rangeDecoderResidualError s)) ∨
    (s.status = .done ∧ s.code = 0 ∧ execFinalize s = .next (respondOk { s with status := .verified })) := by
  unfold execFinalize
  by_cases hs : s.status = .done
  · by_cases hc : s.code = 0
    · have hf : isFinishedOk s = true := by simpa [isFinishedOk] using hc
      exact .inr (.inr ⟨hs, hc, by simp [hs, hf]⟩)
    · have hf : isFinishedOk s = false := by simpa [isFinishedOk] using hc
      exact .inr (.inl ⟨hs, hc, by simp [hs, hf]⟩)
  · exact .inl ⟨hs, by simp [hs]⟩

/-- What an answering RUN can do: fail before INIT, or take some number of STEPs (45_decode_loop.md R295). -/
theorem execRun_cases {s t : State} (h : execRun s = .next t) :
    ((s.status = .unconfigured ∨ s.status = .configured) ∧ t = raiseFail .uninitializedDecoder s) ∨
    ((s.status ≠ .unconfigured ∧ s.status ≠ .configured) ∧ ∃ k, t = stepEffect^[k] (respondOk s)) := by
  have toEnd (h : runToEnd s = .next t) : ∃ k, t = stepEffect^[k] (respondOk s) := by
    unfold runToEnd at h
    split at h
    · next u hu =>
      cases h
      obtain ⟨k, -, ht, -⟩ := runLoop_eq_some hu
      exact ⟨k, ht⟩
    · cases h
  unfold execRun at h
  split at h
  case h_1 hs => cases h; exact .inl ⟨.inl hs, rfl⟩
  case h_2 hs => cases h; exact .inl ⟨.inr hs, rfl⟩
  all_goals next hs => exact .inr ⟨by simp [hs], toEnd h⟩

/-- The next command runs in the state without it (46_host_commands.md R330). -/
theorem step_of_call {s : State} {c : Call} {rest : List Call} {i : Instr} (hc : s.calls = c :: rest)
    (hi : decodeCall c = .ok i) : step s = exec i { s with calls := rest } := by
  simp [step, nextCall, hc, hi]

/-- An unassigned code is refused (46_host_commands.md R326). -/
theorem step_of_unassigned {s : State} {c : Call} {rest : List Call} {e : DecodeError} (hc : s.calls = c :: rest)
    (he : decodeCall c = .error e) : step s = .next (refuse { s with calls := rest }) := by
  simp [step, nextCall, hc, he]

/-! ### Moves -/

/-- The changes of state that the commands but FINALIZE are made of, each with the condition under which it is made
(46_host_commands.md R326, 45_decode_loop.md R280). A RUN makes as many as its STEPs do; whatever each of them keeps, every
step keeps (`step_keeps`). -/
inductive Move : State → State → Prop
  | respond (r : Response) (s : State) : Move s { s with response := some r }
  | reject {s : State} (k : FailKind) (h : s.status = .unconfigured ∨ s.status = .configured) :
      Move s (raiseFail k s)
  | configure {s : State} (p : Byte) (d : U32) (m : SizeMode) (h : s.status = .unconfigured) :
      Move s (setParameters p d m s)
  | rejectCode {s : State} (h : s.status = .configured) (hlen : s.cursor + 5 ≤ s.inp.length) :
      Move s (raiseFail .rangeDecoderInitFailure (initialized s))
  | start {s : State} (h : s.status = .configured) (hlen : s.cursor + 5 ≤ s.inp.length) :
      Move s { initialized s with status := .running }
  | reachSize {s : State} (h : s.status = .running) (hsize : sizeReached s = true) :
      Move s (reachDone .sizeReached s)
  | symbol {s : State} (y : Symbol) (t : State) (h : s.status = .running) (hsize : sizeReached s = false)
      (hy : fetchSymbol s = .ok y t) (hf : DecoderFrame s t) : Move s (symbolEffect y t)
  | failDecoding {s : State} (k : FailKind) (t : State) (h : s.status = .running) (hk : fetchSymbol s = .fail k t)
      (hf : DecoderFrame s t) : Move s (raiseFail k t)

/-- Some moves in turn. -/
abbrev Moves : State → State → Prop := Relation.ReflTransGen Move

/-- What FINALIZE does in Done (46_host_commands.md R325). -/
inductive Finalized : State → State → Prop
  | verified {s : State} (h : s.status = .done) (hc : s.code = 0) :
      Finalized s (respondOk { s with status := .verified })
  | residual {s : State} (h : s.status = .done) (hc : s.code ≠ 0) :
      Finalized s (raiseFail .rangeDecoderResidualError s)

theorem execConfigure_moves {p : Byte} {d : U32} {m : SizeMode} {s t : State} (h : execConfigure p d m s = .next t) :
    Moves s t := by
  rcases execConfigure_cases p d m s with ⟨_, he⟩ | ⟨hs, _, he⟩ | ⟨hs, _, he⟩ <;> rw [he] at h <;> cases h
  · exact .single (.respond _ _)
  · exact .single (.reject _ (.inl hs))
  · exact .tail (.single (.configure p d m hs)) (.respond _ _)

theorem execInit_moves {s t : State} (h : execInit s = .next t) : Moves s t := by
  by_cases hs : s.status = .configured
  · rcases Nat.lt_or_ge s.inp.length (s.cursor + 5) with hlen | hlen
    · rw [execInit_of_short hs hlen] at h
      cases h
      exact .single (.reject _ (.inr hs))
    · rw [execInit_of_bytes hs hlen] at h
      rcases checkInitCode_cases (initialized s) with hc | hc <;> rw [hc] at h <;> cases h
      · exact .single (.rejectCode hs hlen)
      · exact .tail (.single (.start hs hlen)) (.respond _ _)
  · rw [execInit_of_status_ne hs] at h
    cases h
    exact .single (.respond _ _)

theorem stepEffect_moves (s : State) : Moves s (stepEffect s) := by
  rcases stepEffect_cases s with ⟨hs, he⟩ | ⟨_, he⟩ | ⟨hs, hsize, he⟩ | ⟨hs, hsize, he⟩ <;> rw [he]
  · exact .single (.reject _ hs)
  · exact .single (.respond _ _)
  · exact .tail (.single (.respond _ _)) (.reachSize hs hsize)
  · refine .tail (.single (.respond .ok s)) ?_
    rcases decodeSymbolStep_cases (respondOk s) with ⟨y, u, hy, hf, hd⟩ | ⟨k, u, hk, hf, hd⟩ <;> rw [hd]
    · exact .symbol y u hs hsize hy hf
    · exact .failDecoding k u hs hk hf

theorem stepEffect_iterate_moves (k : Nat) (s : State) : Moves s (stepEffect^[k] s) := by
  induction k generalizing s with
  | zero => exact .refl
  | succ k ih => exact (stepEffect_moves s).trans (ih (stepEffect s))

theorem execRun_moves {s t : State} (h : execRun s = .next t) : Moves s t := by
  rcases execRun_cases h with ⟨hs, rfl⟩ | ⟨-, k, rfl⟩
  · exact .single (.reject _ hs)
  · exact .head (.respond .ok s) (stepEffect_iterate_moves k _)

theorem execFinalize_moves {s t : State} (h : execFinalize s = .next t) : Moves s t ∨ Finalized s t := by
  rcases execFinalize_cases s with ⟨_, he⟩ | ⟨hs, hc, he⟩ | ⟨hs, hc, he⟩ <;> rw [he] at h <;> cases h
  · exact .inl (.single (.respond _ _))
  · exact .inr (.residual hs hc)
  · exact .inr (.verified hs hc)

/-- A step takes the next command, if any, and makes moves, or finalizes on FINALIZE alone. -/
theorem step_moves {s t : State} (h : step s = .next t) :
    ∃ rest, Moves { s with calls := rest } t ∨
      (Finalized { s with calls := rest } t ∧ ∃ c, s.calls = c :: rest ∧ decodeCall c = .ok .finalize) := by
  cases hc : s.calls with
  | nil =>
    have hs : step s = .next s := by simp [step, nextCall, hc]
    rw [hs] at h
    cases h
    exact ⟨s.calls, .inl .refl⟩
  | cons c rest =>
    refine ⟨rest, ?_⟩
    rcases decodeCall_cases c with hi | hi | hi | hi | hi | he
    · rw [step_of_call hc hi] at h
      exact .inl (execConfigure_moves h)
    · rw [step_of_call hc hi] at h
      exact .inl (execInit_moves h)
    · rw [step_of_call hc hi] at h
      cases h
      exact .inl (stepEffect_moves _)
    · rw [step_of_call hc hi] at h
      exact .inl (execRun_moves h)
    · rw [step_of_call hc hi] at h
      exact (execFinalize_moves h).imp_right fun hf => ⟨hf, c, rfl, hi⟩
    · rw [step_of_unassigned hc he] at h
      cases h
      exact .inl (.single (.respond _ _))

/-- What every move keeps, moves in turn keep. -/
theorem moves_keep {R : State → State → Prop} (refl : ∀ s, R s s) (trans : ∀ s t u, R s t → R t u → R s u)
    (move : ∀ s t, Move s t → R s t) {s t : State} (h : Moves s t) : R s t := by
  induction h with
  | refl => exact refl s
  | tail _ hm ih => exact trans _ _ _ ih (move _ _ hm)

/-- What the taking of a command, every move and FINALIZE keep, every step keeps. -/
theorem step_keeps {R : State → State → Prop} (refl : ∀ s, R s s) (trans : ∀ s t u, R s t → R t u → R s u)
    (calls : ∀ s rest, R s { s with calls := rest }) (move : ∀ s t, Move s t → R s t)
    (finalized : ∀ s t, Finalized s t → R s t) {s t : State} (h : step s = .next t) : R s t := by
  obtain ⟨rest, hm | ⟨hf, -⟩⟩ := step_moves h
  · exact trans _ _ _ (calls s rest) (moves_keep refl trans move hm)
  · exact trans _ _ _ (calls s rest) (finalized _ _ hf)

end Sys2Proof.Machine

/-! ## The invariant (10_state.md, 45_decode_loop.md R293) -/

namespace Sys2Proof.Machine

/-! ### A storing symbol as one update -/

theorem countDown_eq (n : Nat) (s : State) : countDown n s = { s with remaining := remainingAfter n s } := by
  unfold countDown remainingAfter
  split <;> rfl

theorem repsAfter_eq (y : Symbol) (s : State) :
    repsAfter y s = { s with rep0 := (repsAfter y s).rep0, rep1 := (repsAfter y s).rep1,
                             rep2 := (repsAfter y s).rep2, rep3 := (repsAfter y s).rep3 } := by
  cases y <;> rfl

/-- The state after a symbol that appends `ext`. -/
def stored (y : Symbol) (ext : Memory) (s : State) : State :=
  { s with
    rep0 := (repsAfter y s).rep0, rep1 := (repsAfter y s).rep1,
    rep2 := (repsAfter y s).rep2, rep3 := (repsAfter y s).rep3,
    out := s.out ++ ext, lzmaState := stateAfter y s.lzmaState, remaining := remainingAfter (symbolLen y) s }

theorem stored_eq (y : Symbol) (ext : Memory) (s : State) :
    countDown (symbolLen y) { repsAfter y s with out := s.out ++ ext, lzmaState := stateAfter y s.lzmaState } =
      stored y ext s := by
  rw [countDown_eq, repsAfter_eq]
  rfl

/-- The distance a symbol copies from, if any, lies within the output and the dictionary. -/
def CopyInRange (y : Symbol) (s : State) : Prop :=
  ∀ d, copyDistance y s = some d → d.toNat < s.produced ∧ d < s.dictionarySize

/-- `symbolEffect_cases` with its storing case as one update. -/
theorem symbolEffect_outcomes (y : Symbol) (s : State) :
    (∃ k, symbolEffect y s = raiseFail k s) ∨
    (s.bounded = false ∧ symbolEffect y s = reachDone .endMarker s) ∨
    (CopyInRange y s ∧ ∃ ext : Memory, ext.length = symbolLen y ∧ symbolEffect y s = stored y ext s) := by
  rcases symbolEffect_cases y s with hfail | ⟨_, -, hb, h⟩ | ⟨hd, -, ext, hlen, h⟩
  · exact .inl hfail
  · exact .inr (.inl ⟨hb, h⟩)
  · exact .inr (.inr ⟨hd, ext, hlen, by rw [h, stored_eq]⟩)

/-! ### The parts of the invariant after a symbol -/

/-- More output keeps a rep in range. -/
theorem RepInv.of_le {s t : State} {d : U32} (h : RepInv s d) (hp : s.produced ≤ t.produced)
    (hd : t.dictionarySize = s.dictionarySize) : RepInv t d :=
  h.imp_right fun ⟨hlt, hdict⟩ => ⟨Nat.lt_of_lt_of_le hlt hp, hd ▸ hdict⟩

/-- A symbol's new reps are old ones or the distance it copies from (45_decode_loop.md R292, R293). -/
theorem repsAfter_repInv {y : Symbol} {s : State} (h : RepsInv s) (hd : CopyInRange y s) :
    RepInv s (repsAfter y s).rep0 ∧ RepInv s (repsAfter y s).rep1 ∧ RepInv s (repsAfter y s).rep2 ∧
      RepInv s (repsAfter y s).rep3 := by
  obtain ⟨h0, h1, h2, h3⟩ := h
  cases y with
  | lit _ => exact ⟨h0, h1, h2, h3⟩
  | newMatch _ dist => exact ⟨.inr (hd dist rfl), h0, h1, h2⟩
  | eos _ => exact ⟨h0, h1, h2, h3⟩
  | shortRep => exact ⟨h0, h1, h2, h3⟩
  | longRep0 _ => exact ⟨h0, h1, h2, h3⟩
  | longRep1 _ => exact ⟨h1, h0, h2, h3⟩
  | longRep2 _ => exact ⟨h2, h0, h1, h3⟩
  | longRep3 _ => exact ⟨h3, h0, h1, h2⟩

theorem stored_repsInv {y : Symbol} {s : State} (ext : Memory) (h : RepsInv s) (hd : CopyInRange y s) :
    RepsInv (stored y ext s) := by
  have hp : s.produced ≤ (stored y ext s).produced := by simp [State.produced, stored]
  obtain ⟨h0, h1, h2, h3⟩ := repsAfter_repInv h hd
  exact ⟨h0.of_le hp rfl, h1.of_le hp rfl, h2.of_le hp rfl, h3.of_le hp rfl⟩

/-- A copy reads an output that is there. -/
theorem CopyInRange.out_ne_nil {y : Symbol} {s : State} {d : U32} (h : CopyInRange y s)
    (hd : copyDistance y s = some d) : s.out ≠ [] := by
  have hlt := (h d hd).1
  exact List.ne_nil_of_length_pos (Nat.zero_lt_of_lt hlt)

/-- After a symbol that stores there is output, and one that stores nothing does not move `state` (42_state_machine.md
R203). -/
theorem stored_matchedInv {y : Symbol} {s : State} {ext : Memory} (h : MatchedInv s) (hd : CopyInRange y s)
    (hlen : ext.length = symbolLen y) : MatchedInv (stored y ext s) := by
  intro hstate
  cases hc : copyDistance y s with
  | some d => exact List.append_ne_nil_of_left_ne_nil (hd.out_ne_nil hc) ext
  | none =>
    cases y with
    | lit b => exact List.append_ne_nil_of_right_ne_nil _ (List.ne_nil_of_length_eq_add_one hlen)
    | eos len => exact List.append_ne_nil_of_left_ne_nil (h hstate) ext
    | _ => cases hc

/-! ### The invariant after each move -/

/-- The commands pending and the outcome returned are no part of the invariant. -/
theorem Inv.of_host {s : State} (h : Inv s) (calls : List Call) (response : Option Response) :
    Inv { s with calls := calls, response := response } :=
  ⟨h.probs, h.range, h.cursor, h.reps, h.matched, h.err, h.done, h.start, h.verified⟩

/-- A failure keeps the invariant wherever the decoder stands, its range and code being free in Failed. -/
theorem Inv.raiseFail {s t : State} (h : Inv s) (hf : DecoderFrame s t) (hp : ProbsInv t) (hc : CursorInv t)
    (k : FailKind) : Inv (raiseFail k t) := by
  obtain ⟨r, c, n, p, rfl⟩ := hf.exists_eq
  obtain ⟨-, -, hsize, hmarker⟩ := h.done
  exact {
    probs := hp
    range := by simp [RangeInv, afterInit]
    cursor := hc
    reps := h.reps
    matched := h.matched
    err := by simp [ErrInv]
    done := ⟨by simp, by simp [beforeInit], hsize, hmarker⟩
    start := by simp [StartInv, beforeInit]
    verified := by simp [VerifiedInv] }

/-- A failure with nothing decoded keeps the invariant. -/
theorem Inv.raiseFail_self {s : State} (h : Inv s) (k : FailKind) : Inv (Machine.raiseFail k s) :=
  h.raiseFail (.refl s) h.probs h.cursor k

/-- The decoding of a symbol keeps the invariant. -/
theorem Inv.of_decoding {s t : State} (h : Inv s) (hs : s.status = .running) (hf : DecoderFrame s t)
    (hp : ProbsInv t) (hc : CursorInv t) (hr : Config.top ≤ t.range) : Inv t := by
  obtain ⟨r, c, n, p, rfl⟩ := hf.exists_eq
  exact {
    probs := hp
    range := fun _ => hr
    cursor := hc
    reps := h.reps
    matched := h.matched
    err := h.err
    done := h.done
    start := by simp [StartInv, beforeInit, hs]
    verified := by simp [VerifiedInv, hs] }

theorem Inv.reachDone {s : State} (h : Inv s) (hs : s.status = .running) (r : DoneReason)
    (hsize : r = .sizeReached → s.bounded = true ∧ s.remaining = 0) (hmarker : r = .endMarker → s.bounded = false) :
    Inv (reachDone r s) where
  probs := h.probs
  range := fun _ => h.range (by simp [afterInit, hs])
  cursor := h.cursor
  reps := h.reps
  matched := h.matched
  err := by simpa [ErrInv, Machine.reachDone, hs] using h.err
  done := by simpa [DoneInv, Machine.reachDone, beforeInit] using ⟨hsize, hmarker⟩
  start := by simp [StartInv, Machine.reachDone, beforeInit]
  verified := by simp [VerifiedInv, Machine.reachDone]

theorem Inv.stored {y : Symbol} {s : State} {ext : Memory} (h : Inv s) (hs : s.status = .running)
    (hd : CopyInRange y s) (hlen : ext.length = symbolLen y) : Inv (stored y ext s) := by
  have hdone : s.doneReason = none := h.done.2.1 (.inr hs)
  exact {
    probs := h.probs
    range := h.range
    cursor := h.cursor
    reps := stored_repsInv ext h.reps hd
    matched := stored_matchedInv h.matched hd hlen
    err := h.err
    done := by simp [DoneInv, Machine.stored, hs, hdone]
    start := by simp [StartInv, Machine.stored, beforeInit, hs]
    verified := by simp [VerifiedInv, Machine.stored, hs] }

theorem Inv.symbolEffect {s : State} (h : Inv s) (hs : s.status = .running) (y : Symbol) : Inv (symbolEffect y s) := by
  rcases symbolEffect_outcomes y s with ⟨k, he⟩ | ⟨hb, he⟩ | ⟨hd, ext, hlen, he⟩ <;> rw [he]
  · exact h.raiseFail_self k
  · exact h.reachDone hs .endMarker (by simp) fun _ => hb
  · exact h.stored hs hd hlen

/-- CONFIGURE starts the automaton, the reps and the store (46_host_commands.md R320). -/
theorem Inv.setParameters {s : State} (h : Inv s) (hs : s.status = .unconfigured) (p : Byte) (d : U32)
    (m : SizeMode) : Inv (setParameters p d m s) := by
  have hbefore : beforeInit s = true := by simp [beforeInit, hs]
  have hdone : s.doneReason = none := h.done.2.1 (.inl hbefore)
  obtain ⟨hcursor, hout, -, -⟩ := h.start hbefore
  exact {
    probs := ⟨rfl, by simp [Machine.setParameters]⟩
    range := by simp [RangeInv, Machine.setParameters, afterInit]
    cursor := h.cursor
    reps := ⟨.inl rfl, .inl rfl, .inl rfl, .inl rfl⟩
    matched := by simp [MatchedInv, Machine.setParameters]
    err := by simpa [ErrInv, Machine.setParameters, hs] using h.err
    done := by simp [DoneInv, Machine.setParameters, hdone]
    start := by simp [StartInv, Machine.setParameters, hcursor, hout]
    verified := by simp [VerifiedInv, Machine.setParameters] }

theorem initialized_frame (s : State) : DecoderFrame s (initialized s) := rfl

/-- INIT starts the range decoder (46_host_commands.md R322). -/
theorem Inv.start_running {s : State} (h : Inv s) (hs : s.status = .configured) (hlen : s.cursor + 5 ≤ s.inp.length) :
    Inv { initialized s with status := .running } := by
  have hdone : s.doneReason = none := h.done.2.1 (.inl (by simp [beforeInit, hs]))
  exact {
    probs := h.probs
    range := fun _ => by simp [initialized]
    cursor := hlen
    reps := h.reps
    matched := h.matched
    err := by simpa [ErrInv, initialized, hs] using h.err
    done := by simp [DoneInv, initialized, hdone]
    start := by simp [StartInv, beforeInit]
    verified := by simp [VerifiedInv] }

/-- FINALIZE verifies a residual of 0 (46_host_commands.md R325). -/
theorem Inv.verify {s : State} (h : Inv s) (hs : s.status = .done) (hc : s.code = 0) :
    Inv (respondOk { s with status := .verified }) := by
  obtain ⟨hreason, -, hsize, hmarker⟩ := h.done
  exact {
    probs := h.probs
    range := fun _ => h.range (by simp [afterInit, hs])
    cursor := h.cursor
    reps := h.reps
    matched := h.matched
    err := by simpa [ErrInv, hs] using h.err
    done := ⟨fun _ => hreason (.inl hs), by simp [beforeInit], hsize, hmarker⟩
    start := by simp [StartInv, beforeInit]
    verified := fun _ => hc }

/-- Every move keeps the invariant. -/
theorem Inv.of_move {s t : State} (h : Inv s) (hm : Move s t) : Inv t := by
  cases hm with
  | respond r => exact h.of_host s.calls (some r)
  | reject k _ => exact h.raiseFail_self k
  | configure p d m hs => exact h.setParameters hs p d m
  | rejectCode hs hlen => exact h.raiseFail (initialized_frame s) h.probs hlen _
  | start hs hlen => exact h.start_running hs hlen
  | reachSize hs hsize =>
    exact h.reachDone hs .sizeReached (fun _ => by simpa [sizeReached] using hsize) (by simp)
  | symbol y u hs _ hy hf =>
    have hkeep := fetchSymbol_keeps h.probs h.cursor
    rw [hy] at hkeep
    have hr := fetchSymbol_range h.probs h.cursor (h.range (by simp [afterInit, hs])) hy
    have hu : u.status = .running := by rw [hf]; exact hs
    exact (h.of_decoding hs hf hkeep.1 hkeep.2 hr).symbolEffect hu y
  | failDecoding k u _ hk hf =>
    have hkeep := fetchSymbol_keeps h.probs h.cursor
    rw [hk] at hkeep
    exact h.raiseFail hf hkeep.1 hkeep.2 k

theorem Inv.of_finalized {s t : State} (h : Inv s) (hf : Finalized s t) : Inv t := by
  cases hf with
  | verified hs hc => exact h.verify hs hc
  | residual hs hc => exact h.raiseFail_self _

/-- Settles O3: a step is a sequence of moves, each of which keeps the invariant; the decoding of a symbol keeps the slots
and the range by `fetchSymbol_keeps` and `fetchSymbol_range`. -/
theorem stepKeepsInvariant : Obligations.StepKeepsInvariant := by
  intro s s' h hstep
  exact step_keeps (R := fun s t => Inv s → Inv t) (fun _ h => h) (fun _ _ _ h h' hs => h' (h hs))
    (fun s rest h => h.of_host rest s.response) (fun _ _ hm h => h.of_move hm) (fun _ _ hf h => h.of_finalized hf)
    hstep h

end Sys2Proof.Machine

/-! ## The configuration and the status (10_state.md R37, R38) -/

namespace Sys2Proof.Machine

/-- `t` has the configuration registers of `s` but `remaining`. -/
def SameConfig (s t : State) : Prop :=
  t.lc = s.lc ∧ t.lp = s.lp ∧ t.pb = s.pb ∧ t.dictionarySize = s.dictionarySize ∧ t.bounded = s.bounded

theorem SameConfig.refl (s : State) : SameConfig s s := ⟨rfl, rfl, rfl, rfl, rfl⟩

theorem SameConfig.trans {s t u : State} (h : SameConfig s t) (h' : SameConfig t u) : SameConfig s u := by
  obtain ⟨a, b, c, d, e⟩ := h
  obtain ⟨a', b', c', d', e'⟩ := h'
  exact ⟨a'.trans a, b'.trans b, c'.trans c, d'.trans d, e'.trans e⟩

theorem DecoderFrame.sameConfig {s t : State} (h : DecoderFrame s t) : SameConfig s t := by
  rw [h]
  exact .refl s

theorem DecoderFrame.status_eq {s t : State} (h : DecoderFrame s t) : t.status = s.status := by
  rw [h]

theorem symbolEffect_sameConfig (y : Symbol) (s : State) : SameConfig s (symbolEffect y s) := by
  rcases symbolEffect_outcomes y s with ⟨k, he⟩ | ⟨_, he⟩ | ⟨_, ext, _, he⟩ <;> rw [he] <;> exact .refl s

/-- A symbol leaves the status, ends the session by a failure, or ends the loop. -/
theorem symbolEffect_status (y : Symbol) (s : State) :
    (symbolEffect y s).status = s.status ∨ (symbolEffect y s).status = .failed ∨ (symbolEffect y s).status = .done := by
  rcases symbolEffect_outcomes y s with ⟨k, he⟩ | ⟨_, he⟩ | ⟨_, ext, _, he⟩ <;> rw [he]
  · exact .inr (.inl rfl)
  · exact .inr (.inr rfl)
  · exact .inl rfl

/-- How a move changes the status: not at all, or from the statuses before INIT forward to Configured, Running or Failed, or
from Running forward to Done or Failed (10_state.md R38). -/
theorem Move.status_cases {s t : State} (h : Move s t) :
    t.status = s.status ∨
    (s.status = .unconfigured ∧ t.status = .configured) ∨
    (s.status = .configured ∧ t.status = .running) ∨
    ((s.status = .unconfigured ∨ s.status = .configured ∨ s.status = .running) ∧ t.status = .failed) ∨
    (s.status = .running ∧ t.status = .done) := by
  cases h with
  | respond r => exact .inl rfl
  | reject k hs => exact .inr (.inr (.inr (.inl ⟨by tauto, rfl⟩)))
  | configure p d m hs => exact .inr (.inl ⟨hs, rfl⟩)
  | rejectCode hs _ => exact .inr (.inr (.inr (.inl ⟨.inr (.inl hs), rfl⟩)))
  | start hs _ => exact .inr (.inr (.inl ⟨hs, rfl⟩))
  | reachSize hs _ => exact .inr (.inr (.inr (.inr ⟨hs, rfl⟩)))
  | symbol y u hs _ _ hf =>
    rcases symbolEffect_status y u with h | h | h
    · exact .inl (h.trans hf.status_eq)
    · exact .inr (.inr (.inr (.inl ⟨.inr (.inr hs), h⟩)))
    · exact .inr (.inr (.inr (.inr ⟨hs, h⟩)))
  | failDecoding k u hs _ _ => exact .inr (.inr (.inr (.inl ⟨.inr (.inr hs), rfl⟩)))

/-- Once configured, a move keeps the configuration (10_state.md R37). -/
theorem Move.sameConfig {s t : State} (h : Move s t) (hs : s.status ≠ .unconfigured) : SameConfig s t := by
  cases h with
  | configure p d m hu => exact absurd hu hs
  | symbol y u _ _ _ hf => exact hf.sameConfig.trans (symbolEffect_sameConfig y u)
  | failDecoding k u _ _ hf => exact hf.sameConfig
  | _ => exact .refl s

theorem Finalized.sameConfig {s t : State} (h : Finalized s t) : SameConfig s t := by
  cases h <;> exact .refl s

/-- Settles O53: CONFIGURE's move alone writes the configuration, and no move goes back to Unconfigured. -/
theorem configurationIsFixed : Obligations.ConfigurationIsFixed := by
  intro s t hs h
  have keep : s.status ≠ .unconfigured → SameConfig s t ∧ t.status ≠ .unconfigured := by
    refine step_keeps (R := fun s t => s.status ≠ .unconfigured → SameConfig s t ∧ t.status ≠ .unconfigured)
      ?refl ?trans ?calls ?move ?finalized h
    case refl => exact fun s hs => ⟨.refl s, hs⟩
    case trans =>
      intro s t u h h' hs
      obtain ⟨hst, ht⟩ := h hs
      obtain ⟨htu, hu⟩ := h' ht
      exact ⟨hst.trans htu, hu⟩
    case calls => exact fun s _ hs => ⟨.refl s, hs⟩
    case move =>
      intro s t hm hs
      refine ⟨hm.sameConfig hs, ?_⟩
      rcases hm.status_cases with h | ⟨_, h⟩ | ⟨_, h⟩ | ⟨_, h⟩ | ⟨_, h⟩ <;> rw [h]
      · exact hs
      all_goals decide
    case finalized =>
      intro s t hf _
      refine ⟨hf.sameConfig, ?_⟩
      cases hf <;> simp
  exact (keep hs).1

/-- How moves in turn change the status: forward, and neither out of Done, Verified and Failed nor into Verified. -/
structure MoveOrder (s t : State) : Prop where
  code : statusCode s.status ≤ statusCode t.status
  done : s.status = .done → t.status = .done
  verified : t.status = .verified ↔ s.status = .verified
  failed : s.status = .failed → t.status = .failed

theorem Move.order {s t : State} (h : Move s t) : MoveOrder s t := by
  rcases h.status_cases with ht | ⟨hs, ht⟩ | ⟨hs, ht⟩ | ⟨hs | hs | hs, ht⟩ | ⟨hs, ht⟩ <;>
    exact ⟨by simp [statusCode, *], by simp [*], by simp [*], by simp [*]⟩

theorem Moves.order {s t : State} (h : Moves s t) : MoveOrder s t := by
  refine moves_keep (R := MoveOrder) (fun s => ⟨Nat.le_refl _, id, Iff.rfl, id⟩) ?_ (fun _ _ hm => hm.order) h
  intro s t u h h'
  exact ⟨h.code.trans h'.code, h'.done ∘ h.done, h'.verified.trans h.verified, h'.failed ∘ h.failed⟩

/-- Settles O54: FINALIZE's own change is that from Done; all other changes of status are moves. -/
theorem statusOnlyAdvances : Obligations.StatusOnlyAdvances := by
  intro s t h
  obtain ⟨rest, hm | ⟨hf, c, hc, hi⟩⟩ := step_moves h
  · have order := Moves.order hm
    exact ⟨order.code, order.verified.mpr, order.failed, fun hs ht => absurd (order.done hs) ht,
      fun ht => .inl (order.verified.mp ht)⟩
  · have final : ∃ c rest, s.calls = c :: rest ∧ decodeCall c = .ok .finalize := ⟨c, rest, hc, hi⟩
    cases hf with
    | verified hs hcode =>
      have hs : s.status = .done := hs
      exact ⟨by simp [hs, statusCode], by simp [hs], by simp [hs], fun _ _ => final,
        fun _ => .inr ⟨hs, hcode, final⟩⟩
    | residual hs _ =>
      have hs : s.status = .done := hs
      exact ⟨by simp [hs, statusCode], by simp [hs], by simp [hs], fun _ _ => final, by simp⟩

/-! ## What the host reads (46_host_commands.md R328, 60_exceptions.md R368) -/

/-- Once failed, a move changes neither the diagnosis nor the output: every move but an outcome returned starts in another
status (60_exceptions.md R346). -/
theorem Move.of_failed {s t : State} (h : Move s t) (hs : s.status = .failed) :
    diagnose t = diagnose s ∧ t.out = s.out := by
  cases h with
  | respond r => exact ⟨rfl, rfl⟩
  | _ => simp_all only [reduceCtorEq, or_self]

/-- No step of a failed session changes the diagnosis or the output. -/
theorem step_of_failed {s t : State} (h : step s = .next t) (hs : s.status = .failed) :
    diagnose t = diagnose s ∧ t.out = s.out := by
  have keep : s.status = .failed → t.status = .failed ∧ diagnose t = diagnose s ∧ t.out = s.out := by
    refine step_keeps
      (R := fun s t => s.status = .failed → t.status = .failed ∧ diagnose t = diagnose s ∧ t.out = s.out)
      ?refl ?trans ?calls ?move ?finalized h
    case refl => exact fun s hs => ⟨hs, rfl, rfl⟩
    case trans =>
      intro s t u h h' hs
      obtain ⟨ht, hdiag, hout⟩ := h hs
      obtain ⟨hu, hdiag', hout'⟩ := h' ht
      exact ⟨hu, hdiag'.trans hdiag, hout'.trans hout⟩
    case calls => exact fun s _ hs => ⟨hs, rfl, rfl⟩
    case move => exact fun s t hm hs => ⟨hm.order.failed hs, hm.of_failed hs⟩
    case finalized => intro s t hf hs; cases hf <;> simp_all
  exact (keep hs).2

/-- Settles O58: out of Failed the view has no diagnosis; in Failed it is that of the raise point, which
`step_of_failed` keeps. -/
theorem hostReads : Obligations.HostReads := by
  refine ⟨fun s => ⟨rfl, rfl, rfl, rfl, rfl⟩, ?_, fun k s => rfl, ?_⟩
  · intro s s' hs hstatus herr hdone hout hresp
    have hdiag : diagnose s' = diagnose s := by
      rw [diagnose_of_not_failed hs, diagnose_of_not_failed (hstatus ▸ hs)]
    simp [hostView, State.produced, hstatus, herr, hdone, hout, hresp, hdiag]
  · intro s t hs h
    obtain ⟨hdiag, hout⟩ := step_of_failed h hs
    exact ⟨by simp [hostView, diagnose_of_failed hs], hdiag, hout⟩

/-- Other values of `range` and `code` show in the diagnosis alone. -/
theorem hostView_range_code (s : State) (r x : U32) :
    hostView { s with range := r, code := x } =
      { hostView s with diagnosis := (hostView s).diagnosis.map fun d => { d with range := r, code := x } } := by
  by_cases hs : s.status = .failed
  · simp [hostView, diagnose, diagnosticState, hs, State.produced]
  · have hs' : ({ s with range := r, code := x } : State).status ≠ .failed := hs
    simp [hostView, diagnose_of_not_failed hs, diagnose_of_not_failed hs', State.produced]

/-- `t'` is `t` but for `range` and `code`, and not even that in Running. -/
def HiddenDifference (t t' : State) : Prop :=
  t' = { t with range := t'.range, code := t'.code } ∧ (t.status = .running → t' = t)

theorem HiddenDifference.refl (t : State) : HiddenDifference t t := ⟨rfl, fun _ => rfl⟩

theorem HiddenDifference.of_not_running {t : State} (r x : U32) (h : t.status ≠ .running) :
    HiddenDifference t { t with range := r, code := x } := ⟨rfl, fun ht => absurd ht h⟩

section
variable {s t : State} (r x : U32) (hs : s.status = .unconfigured ∨ s.status = .configured)
include hs

theorem execConfigure_range_code {p : Byte} {d : U32} {m : SizeMode} (h : execConfigure p d m s = .next t) :
    ∃ t', execConfigure p d m { s with range := r, code := x } = .next t' ∧ HiddenDifference t t' := by
  unfold execConfigure at h ⊢
  by_cases hu : s.status = .unconfigured
  · by_cases hp : Config.propsLimit ≤ p.toNat
    · rw [if_neg (not_not.mpr hu), if_pos hp] at h ⊢
      cases h
      exact ⟨_, rfl, .of_not_running r x (by simp)⟩
    · rw [if_neg (not_not.mpr hu), if_neg hp] at h ⊢
      cases h
      exact ⟨_, rfl, .of_not_running r x (by simp [setParameters])⟩
  · rw [if_pos hu] at h ⊢
    cases h
    exact ⟨_, rfl, .of_not_running r x (by rcases hs with hs | hs <;> simp [hs])⟩

/-- INIT writes `range` and `code` before it reads them. -/
theorem execInit_range_code (h : execInit s = .next t) :
    ∃ t', execInit { s with range := r, code := x } = .next t' ∧ HiddenDifference t t' := by
  by_cases hc : s.status = .configured
  · rcases Nat.lt_or_ge s.inp.length (s.cursor + 5) with hlen | hlen
    · rw [execInit_of_short hc hlen] at h
      cases h
      exact ⟨_, execInit_of_short hc hlen, .of_not_running r x (by simp)⟩
    · rw [execInit_of_bytes hc hlen] at h
      exact ⟨t, (execInit_of_bytes (s := { s with range := r, code := x }) hc hlen).trans h, .refl t⟩
  · rw [execInit_of_status_ne hc] at h
    cases h
    exact ⟨_, execInit_of_status_ne hc, .of_not_running r x (by rcases hs with hs | hs <;> simp [hs])⟩

theorem execStep_before_init : execStep s = .next (raiseFail .uninitializedDecoder s) := by
  rcases hs with hs | hs <;> simp [execStep, stepEffect, hs]

theorem execRun_before_init : execRun s = .next (raiseFail .uninitializedDecoder s) := by
  rcases hs with hs | hs <;> simp [execRun, hs]

theorem execFinalize_before_init : execFinalize s = .next (refuse s) := by
  rcases hs with hs | hs <;> simp [execFinalize, hs]

/-- The five commands before INIT, run with other values of `range` and `code`: INIT writes both before it reads them, the
others read neither (10_state.md R64). -/
theorem exec_range_code {c : Call} {i : Instr} (hi : decodeCall c = .ok i) (h : exec i s = .next t) :
    ∃ t', exec i { s with range := r, code := x } = .next t' ∧ HiddenDifference t t' := by
  rcases decodeCall_cases c with hc | hc | hc | hc | hc | hc <;> rw [hc] at hi <;> cases hi
  · exact execConfigure_range_code r x hs h
  · exact execInit_range_code r x hs h
  · rw [exec, execStep_before_init hs] at h
    cases h
    exact ⟨_, execStep_before_init hs, .of_not_running r x (by simp)⟩
  · rw [exec, execRun_before_init hs] at h
    cases h
    exact ⟨_, execRun_before_init hs, .of_not_running r x (by simp)⟩
  · rw [exec, execFinalize_before_init hs] at h
    cases h
    exact ⟨_, execFinalize_before_init hs, .of_not_running r x (by rcases hs with hs | hs <;> simp [hs])⟩

end

/-- Settles O57: the two runs differ in `range` and `code` at most, which show in the diagnosis alone. -/
theorem resetRangeAndCodeAreHidden : Obligations.ResetRangeAndCodeAreHidden := by
  intro c i s t r x hs hi h
  obtain ⟨t', ht', hdiff, hrun⟩ := exec_range_code r x hs hi h
  refine ⟨t', ht', ?_, hrun⟩
  rw [hdiff]
  exact hostView_range_code t t'.range t'.code

end Sys2Proof.Machine

/-! ## The input and the output (20_memory.md R70, R72, R75) -/

namespace Sys2Proof.Machine

/-- Settles O39, by `readByte_of_lt` and the first case of `readByte_cases`. -/
theorem readByteAdvances : Obligations.ReadByteAdvances := by
  refine ⟨fun s h => ⟨s.inp[s.cursor], by simp [Memory.read, h], readByte_of_lt h⟩, fun s h => ?_⟩
  rcases readByte_cases s with ⟨-, hr⟩ | ⟨b, hlt, -, -⟩
  · exact hr
  · exact absurd h (Nat.ne_of_lt hlt)

theorem DecoderFrame.out_eq {s t : State} (h : DecoderFrame s t) : t.out = s.out := by
  rw [h]

/-- A symbol appends to the window or leaves it (44_output_window.md R268). -/
theorem symbolEffect_out_prefix (y : Symbol) (s : State) : s.out <+: (symbolEffect y s).out := by
  rcases symbolEffect_outcomes y s with ⟨k, he⟩ | ⟨_, he⟩ | ⟨_, ext, _, he⟩ <;> rw [he]
  · exact List.prefix_rfl
  · exact List.prefix_rfl
  · exact List.prefix_append s.out ext

/-- No move rewrites the window: a symbol's may extend it, every other leaves it (44_output_window.md R268). -/
theorem Move.out_prefix {s t : State} (h : Move s t) : s.out <+: t.out := by
  cases h with
  | symbol y u _ _ _ hf => exact hf.out_eq ▸ symbolEffect_out_prefix y u
  | failDecoding k u _ _ hf => exact hf.out_eq ▸ List.prefix_rfl
  | _ => exact List.prefix_rfl

/-- Settles O38: every move extends the window, a storing symbol by its bytes, any other by nothing. -/
theorem windowIsAppendOnly : Obligations.WindowIsAppendOnly := by
  intro s t h
  obtain ⟨ext, hext⟩ : s.out <+: t.out :=
    step_keeps (R := fun s t => s.out <+: t.out) (fun _ => List.prefix_rfl) (fun _ _ _ => .trans)
      (fun _ _ => List.prefix_rfl) (fun _ _ hm => hm.out_prefix) (fun _ _ hf => by cases hf <;> exact List.prefix_rfl) h
  exact ⟨ext, hext.symm⟩

/-- `t` has the input and the parameter of `s`, and its cursor is no further back. -/
def InputForward (s t : State) : Prop :=
  t.inp = s.inp ∧ t.initCodeCheck = s.initCodeCheck ∧ s.cursor ≤ t.cursor

theorem InputForward.refl (s : State) : InputForward s s := ⟨rfl, rfl, Nat.le_refl _⟩

theorem InputForward.trans {s t u : State} (h : InputForward s t) (h' : InputForward t u) : InputForward s u := by
  obtain ⟨hinp, hcheck, hcursor⟩ := h
  obtain ⟨hinp', hcheck', hcursor'⟩ := h'
  exact ⟨hinp'.trans hinp, hcheck'.trans hcheck, hcursor.trans hcursor'⟩

/-- A decision takes no byte or one, also where it fails (40_range_decoder.md R141). -/
theorem takeDecision_cursor (d : Decision) (s : State) :
    s.cursor ≤ (takeDecision d s).state.cursor ∧ (takeDecision d s).state.cursor ≤ s.cursor + 1 := by
  rcases takeDecision_cases d s with ⟨_, h⟩ | ⟨_, b, _, _, h⟩ | ⟨_, _, h⟩ <;> rw [h] <;> simp [shiftIn]

theorem takeDecision_inputForward (d : Decision) (s : State) : InputForward s (takeDecision d s).state :=
  have hf := takeDecision_frame d s
  ⟨by rw [hf], by rw [hf], (takeDecision_cursor d s).1⟩

/-- The decoding of a symbol only reads the input, and forward. -/
theorem fetchSymbol_inputForward (s : State) : InputForward s (fetchSymbol s).state :=
  runFetch_keeps InputForward .refl (fun _ _ _ => .trans) takeDecision_inputForward _ s

theorem symbolEffect_inputForward (y : Symbol) (s : State) : InputForward s (symbolEffect y s) := by
  rcases symbolEffect_outcomes y s with ⟨k, he⟩ | ⟨_, he⟩ | ⟨_, ext, _, he⟩ <;> rw [he] <;> exact .refl s

theorem Move.inputForward {s t : State} (h : Move s t) : InputForward s t := by
  have hfetch := fetchSymbol_inputForward s
  cases h with
  | rejectCode _ _ => exact ⟨rfl, rfl, Nat.le_add_right _ _⟩
  | start _ _ => exact ⟨rfl, rfl, Nat.le_add_right _ _⟩
  | symbol y u _ _ hy _ => rw [hy] at hfetch; exact hfetch.trans (symbolEffect_inputForward y u)
  | failDecoding k u _ hk _ => rw [hk] at hfetch; exact hfetch
  | _ => exact .refl s

/-- Settles O52: INIT and the decoding of a symbol move the cursor, and forward; no move writes the input. -/
theorem inputIsReadOnlyAndForward : Obligations.InputIsReadOnlyAndForward := by
  intro s t h
  exact step_keeps (R := InputForward) .refl (fun _ _ _ => .trans) (fun s _ => .refl s)
    (fun _ _ hm => hm.inputForward) (fun s _ hf => by cases hf <;> exact .refl s) h

end Sys2Proof.Machine

/-! ## Reading trees of decisions (20_memory.md R79, 30_encoding.md R101) -/

namespace Sys2Proof

/-! ### A tree read from its parts -/

theorem Fetch.read_bind_eq_ok {α β : Type} {p : Fetch α} {f : α → Fetch β} {bits rest : List Bool} {b : β} :
    (p.bind f).read bits = .ok (b, rest) ↔ ∃ a mid, p.read bits = .ok (a, mid) ∧ (f a).read mid = .ok (b, rest) := by
  rw [Fetch.read_bind]
  rcases p.read bits with _ | ⟨a, mid⟩ <;> simp [Except.bind]

theorem Fetch.read_map_eq_ok {α β : Type} {p : Fetch α} {f : α → β} {bits rest : List Bool} {b : β} :
    (p.map f).read bits = .ok (b, rest) ↔ ∃ a, p.read bits = .ok (a, rest) ∧ f a = b := by
  rw [Fetch.read_map]
  rcases p.read bits with _ | ⟨a, mid⟩ <;> simp [Except.map, and_comm]

theorem read_decide1_eq_ok {α : Type} {slot : Slot} {zero one : Fetch α} {bits rest : List Bool} {a : α} :
    (decide1 slot zero one).read bits = .ok (a, rest) ↔
      ∃ tail, (bits = false :: tail ∧ zero.read tail = .ok (a, rest)) ∨
        (bits = true :: tail ∧ one.read tail = .ok (a, rest)) := by
  rcases bits with _ | ⟨_ | _, bits⟩ <;> simp [decide1, Fetch.read]

theorem Fetch.read_guarded_eq_ok {α : Type} {check : Option FailKind} {p : Fetch α} {bits rest : List Bool} {a : α} :
    (p.guarded check).read bits = .ok (a, rest) ↔ check = none ∧ p.read bits = .ok (a, rest) := by
  cases check <;> simp [Fetch.guarded, Fetch.read]

/-! ### Most significant bit first -/

theorem bitsMsb_congr {n v w : Nat} (h : ∀ i < n, v.testBit i = w.testBit i) : bitsMsb n v = bitsMsb n w := by
  induction n with
  | zero => rfl
  | succ n ih => rw [bitsMsb, bitsMsb, h n (Nat.lt_succ_self n), ih fun i hi => h i (Nat.lt_succ_of_lt hi)]

/-- `bits` starts with the `n` bits of some value, the first the most significant, which shifted into `m` give `x`. -/
def ShiftsIn (n m : Nat) (bits rest : List Bool) (x : Nat) : Prop :=
  ∃ v < 2 ^ n, bits = bitsMsb n v ++ rest ∧ x = 2 ^ n * m + v

theorem shiftsIn_zero {m x : Nat} {bits rest : List Bool} : ShiftsIn 0 m bits rest x ↔ bits = rest ∧ x = m := by
  simp [ShiftsIn, bitsMsb]

theorem not_shiftsIn_nil {n m x : Nat} {rest : List Bool} : ¬ ShiftsIn (n + 1) m [] rest x := by
  simp [ShiftsIn, bitsMsb]

/-- The first bit is the most significant: it is shifted in before the others. -/
theorem shiftsIn_cons {n m x : Nat} {b : Bool} {bits rest : List Bool} :
    ShiftsIn (n + 1) m (b :: bits) rest x ↔ ShiftsIn n (2 * m + b.toNat) bits rest x := by
  have hexp : 2 ^ (n + 1) * m = 2 ^ n * (2 * m) := by ring
  constructor
  · rintro ⟨v, hv, hbits, rfl⟩
    obtain ⟨hb, hbits⟩ := List.cons_eq_cons.mp hbits
    refine ⟨v % 2 ^ n, Nat.mod_lt _ (by positivity), ?_, ?_⟩
    · rw [hbits, bitsMsb_congr (w := v % 2 ^ n) fun i hi => by simp [hi]]
      rfl
    · have hdiv : v / 2 ^ n = b.toNat := by
        have hlt : v / 2 ^ n < 2 := Nat.div_lt_of_lt_mul (by rwa [pow_succ] at hv)
        rw [hb, Nat.toNat_testBit, Nat.mod_eq_of_lt hlt]
      have := Nat.div_add_mod v (2 ^ n)
      rw [hdiv] at this
      rw [Nat.mul_add, hexp]
      omega
  · rintro ⟨v, hv, hbits, rfl⟩
    have hbool := Bool.toNat_le b
    refine ⟨2 ^ n * b.toNat + v, ?_, ?_, by rw [Nat.mul_add, hexp]; omega⟩
    · have := Nat.mul_le_mul_left (2 ^ n) hbool
      rw [pow_succ]
      omega
    · have hlow : bitsMsb n (2 ^ n * b.toNat + v) = bitsMsb n v :=
        bitsMsb_congr fun i hi => by rw [Nat.testBit_two_pow_mul_add _ hv, if_pos hi]
      rw [hbits, bitsMsb, List.cons_append, Nat.testBit_two_pow_mul_add _ hv, hlow]
      cases b <;> simp

/-- Shifting a bit in adds it, its place being free. -/
theorem shift_or_bit (m : Nat) (b : Bool) : (m <<< 1) ||| b.toNat = 2 * m + b.toNat := by
  rw [← Nat.shiftLeft_add_eq_or_of_lt (by simpa using Bool.toNat_lt b), Nat.shiftLeft_eq, Nat.mul_comm, pow_one]

theorem bitTreeFrom_read {P : Nat → Slot} {n m x : Nat} {bits rest : List Bool} :
    (bitTreeFrom P n m).read bits = .ok (x, rest) ↔ ShiftsIn n m bits rest x := by
  induction n generalizing m bits with
  | zero => simp [bitTreeFrom, Fetch.read, shiftsIn_zero, and_comm, eq_comm]
  | succ n ih =>
    cases bits with
    | nil => simp [bitTreeFrom, Fetch.read, not_shiftsIn_nil]
    | cons b bits => rw [bitTreeFrom, Fetch.read, ih, shiftsIn_cons, Nat.shiftLeft_eq, Nat.mul_comm, pow_one]

theorem directBitsFrom_read {n m x : Nat} {bits rest : List Bool} :
    (directBitsFrom n m).read bits = .ok (x, rest) ↔ ShiftsIn n m bits rest x := by
  induction n generalizing m bits with
  | zero => simp [directBitsFrom, Fetch.read, shiftsIn_zero, and_comm, eq_comm]
  | succ n ih =>
    cases bits with
    | nil => simp [directBitsFrom, Fetch.read, not_shiftsIn_nil]
    | cons b bits => rw [directBitsFrom, Fetch.read, ih, shiftsIn_cons, shift_or_bit]

theorem literalPlainFrom_read {P : Nat → Slot} {n m x : Nat} {bits rest : List Bool} :
    (literalPlainFrom P n m).read bits = .ok (x, rest) ↔ ShiftsIn n m bits rest x := by
  induction n generalizing m bits with
  | zero => simp [literalPlainFrom, Fetch.read, shiftsIn_zero, and_comm, eq_comm]
  | succ n ih =>
    cases bits with
    | nil => simp [literalPlainFrom, Fetch.read, not_shiftsIn_nil]
    | cons b bits => rw [literalPlainFrom, Fetch.read, ih, shiftsIn_cons, shift_or_bit]

/-- The match byte selects slots, not bits (42_state_machine.md R201). -/
theorem literalMatchedFrom_read {P : Nat → Slot} {n m mb x : Nat} {bits rest : List Bool} :
    (literalMatchedFrom P n m mb).read bits = .ok (x, rest) ↔ ShiftsIn n m bits rest x := by
  induction n generalizing m mb bits with
  | zero => simp [literalMatchedFrom, Fetch.read, shiftsIn_zero, and_comm, eq_comm]
  | succ n ih =>
    cases bits with
    | nil => simp [literalMatchedFrom, Fetch.read, not_shiftsIn_nil]
    | cons b bits =>
      rw [literalMatchedFrom, Fetch.read, shiftsIn_cons, ← shift_or_bit]
      split
      · exact ih
      · exact literalPlainFrom_read

/-- A forward tree reads the bits of its value, the most significant first (41_bit_tree.md R170). -/
theorem bitTree_read {P : Nat → Slot} {n off v : Nat} {bits rest : List Bool} :
    (bitTree P n off).read bits = .ok (v, rest) ↔ v < 2 ^ n ∧ bits = bitsMsb n v ++ rest := by
  simp only [bitTree, Fetch.read_map_eq_ok, bitTreeFrom_read, ShiftsIn, Nat.one_shiftLeft]
  constructor
  · rintro ⟨_, ⟨w, hw, rfl, rfl⟩, rfl⟩
    rw [Nat.mul_one, Nat.add_sub_cancel_left]
    exact ⟨hw, rfl⟩
  · rintro ⟨hv, rfl⟩
    exact ⟨_, ⟨v, hv, rfl, rfl⟩, by omega⟩

/-- Direct bits are the bits of their value, the most significant first (40_range_decoder.md R145). -/
theorem directBits_read {n v : Nat} {bits rest : List Bool} :
    (directBits n).read bits = .ok (v, rest) ↔ v < 2 ^ n ∧ bits = bitsMsb n v ++ rest := by
  simp [directBits, directBitsFrom_read, ShiftsIn]

/-! ### Least significant bit first -/

theorem bitTreeRevFrom_read {P : Nat → Slot} {n i m sym x : Nat} {bits rest : List Bool} :
    (bitTreeRevFrom P n i m sym).read bits = .ok (x, rest) ↔
      ∃ v < 2 ^ n, bits = bitsLsb n v ++ rest ∧ x = sym ||| (v <<< i) := by
  induction n generalizing i m sym bits with
  | zero => simp [bitTreeRevFrom, Fetch.read, bitsLsb, and_comm, eq_comm]
  | succ n ih =>
    cases bits with
    | nil => simp [bitTreeRevFrom, Fetch.read, bitsLsb]
    | cons b bits =>
      have place (w : Nat) : (sym ||| b.toNat <<< i) ||| w <<< (i + 1) = sym ||| (2 * w + b.toNat) <<< i := by
        rw [← shift_or_bit, Nat.shiftLeft_or_distrib, ← Nat.shiftLeft_add, Nat.add_comm 1 i, Nat.or_assoc,
          Nat.or_comm (b.toNat <<< i)]
      have hbool := Bool.toNat_le b
      rw [bitTreeRevFrom, Fetch.read, ih]
      constructor
      · rintro ⟨w, hw, rfl, rfl⟩
        refine ⟨2 * w + b.toNat, by rw [pow_succ]; omega, ?_, place w⟩
        have hhalf : (2 * w + b.toNat) >>> 1 = w := by rw [Nat.shiftRight_eq_div_pow]; omega
        rw [bitsLsb, hhalf, Nat.testBit_zero, List.cons_append]
        cases b <;> simp
      · rintro ⟨v, hv, hbits, rfl⟩
        obtain ⟨hb, hbits⟩ := List.cons_eq_cons.mp hbits
        refine ⟨v >>> 1, by rw [Nat.shiftRight_eq_div_pow]; omega, hbits, ?_⟩
        rw [place, Nat.shiftRight_eq_div_pow, hb, Nat.toNat_testBit]
        congr 2
        omega

/-- A reverse tree reads the bits of its value from bit 0 on (41_bit_tree.md R171). -/
theorem bitTreeRev_read {P : Nat → Slot} {n off v : Nat} {bits rest : List Bool} :
    (bitTreeRev P n off).read bits = .ok (v, rest) ↔ v < 2 ^ n ∧ bits = bitsLsb n v ++ rest := by
  simp [bitTreeRev, bitTreeRevFrom_read]

/-- Settles O44, by what each of the three reads. -/
theorem bitOrderOfFields : Obligations.BitOrderOfFields :=
  fun _ _ _ _ _ hv => ⟨directBits_read.mpr ⟨hv, rfl⟩, bitTree_read.mpr ⟨hv, rfl⟩, bitTreeRev_read.mpr ⟨hv, rfl⟩⟩

end Sys2Proof

/-! ## What a symbol's grammar reads (30_encoding.md R102 to R115) -/

namespace Sys2Proof

/-! ### The operand fields -/

/-- A length field reads the decisions of a length 2..273 alone (30_encoding.md R107). -/
theorem lenField_read {l : LenSet} {ps : Fin 16} {bits rest : List Bool} {len : Nat}
    (h : (lenField l ps).read bits = .ok (len, rest)) : lenOk len = true ∧ bits = encodeLen len ++ rest := by
  simp only [lenField, read_decide1_eq_ok, Fetch.read_map_eq_ok, bitTree_read] at h
  obtain ⟨tail, ⟨rfl, v, ⟨hv, rfl⟩, rfl⟩ | ⟨rfl, tail, ⟨rfl, v, ⟨hv, rfl⟩, rfl⟩ | ⟨rfl, v, ⟨hv, rfl⟩, rfl⟩⟩⟩ := h
  · exact ⟨by simp [lenOk]; omega, by simp [encodeLen, show 2 + v < 10 by omega]⟩
  · exact ⟨by simp [lenOk]; omega, by simp [encodeLen, show 10 + v < 18 by omega]⟩
  · exact ⟨by simp [lenOk]; omega, by simp [encodeLen, show ¬ 18 + v < 10 by omega]⟩

theorem slotNd_eq (slot : Nat) : slotNd slot = slot / 2 - 1 := by
  rw [slotNd, Nat.shiftRight_eq_div_pow, pow_one]

theorem slotBase_eq (slot : Nat) : slotBase slot = (2 + slot % 2) * 2 ^ slotNd slot := by
  rw [slotBase, Nat.shiftLeft_eq, Nat.and_one_is_mod]
  rcases Nat.mod_two_eq_zero_or_one slot with h | h <;> rw [h] <;> rfl

/-- Slot 63 ends where 32 bits do (30_encoding.md R109). -/
theorem slotBase_add_lt {slot r : Nat} (hslot : slot < 64) (hr : r < 2 ^ slotNd slot) :
    slotBase slot + r < 2 ^ 32 := by
  have hpow : 2 ^ slotNd slot ≤ 2 ^ 30 := Nat.pow_le_pow_right (by decide) (by rw [slotNd_eq]; omega)
  have hbase : (2 + slot % 2) * 2 ^ slotNd slot ≤ 3 * 2 ^ slotNd slot := Nat.mul_le_mul_right _ (by omega)
  rw [slotBase_eq]
  omega

/-- The slot ranges are disjoint: a distance lies in that of one slot (30_encoding.md R110). -/
theorem distSlot_slotBase_add {slot r : Nat} (h4 : 4 ≤ slot) (hr : r < 2 ^ slotNd slot) :
    distSlot (slotBase slot + r) = slot := by
  have hnd := slotNd_eq slot
  have hbase := slotBase_eq slot
  have hpos : 2 ≤ 2 ^ slotNd slot := Nat.le_self_pow (by omega) 2
  have hlow : 2 * 2 ^ slotNd slot ≤ (2 + slot % 2) * 2 ^ slotNd slot := Nat.mul_le_mul_right _ (by omega)
  have hhigh : (2 + slot % 2) * 2 ^ slotNd slot ≤ 3 * 2 ^ slotNd slot := Nat.mul_le_mul_right _ (by omega)
  have hlog : (slotBase slot + r).log2 = slotNd slot + 1 := by
    rw [Nat.log2_eq_iff (by omega), pow_succ, pow_succ]
    omega
  have htop : (slotBase slot + r) >>> slotNd slot = 2 + slot % 2 := by
    rw [Nat.shiftRight_eq_div_pow, hbase, Nat.mul_comm, Nat.mul_add_div (by omega), Nat.div_eq_of_lt hr,
      Nat.add_zero]
  rw [distSlot, if_neg (by omega), hlog, Nat.add_sub_cancel, htop]
  omega

/-- What follows a slot reads the rest of a distance of that slot (30_encoding.md R108, R109). -/
theorem distTail_read {slot d : Nat} {bits rest : List Bool} (hslot : slot < 64)
    (h : (distTail slot).read bits = .ok (d, rest)) :
    distSlot d = slot ∧ d < 2 ^ 32 ∧ bits = encodeDistTail slot (d - slotBase slot) ++ rest := by
  have inSlot {r : Nat} (h4 : 4 ≤ slot) (hr : r < 2 ^ slotNd slot)
      (hbits : bits = encodeDistTail slot r ++ rest) :
      distSlot (slotBase slot + r) = slot ∧ slotBase slot + r < 2 ^ 32 ∧
        bits = encodeDistTail slot (slotBase slot + r - slotBase slot) ++ rest :=
    ⟨distSlot_slotBase_add h4 hr, slotBase_add_lt hslot hr, by rwa [Nat.add_sub_cancel_left]⟩
  unfold distTail at h
  split at h
  next h4 =>
    simp only [Fetch.read, Except.ok.injEq, Prod.mk.injEq] at h
    obtain ⟨rfl, rfl⟩ := h
    exact ⟨by simp [distSlot, h4], by omega, by simp [encodeDistTail, h4]⟩
  next h4 =>
  split at h
  next h14 =>
    simp only [Fetch.read_map_eq_ok, bitTreeRev_read] at h
    obtain ⟨r, ⟨hr, hbits⟩, rfl⟩ := h
    exact inSlot (by omega) hr (by rwa [encodeDistTail, if_neg h4, if_pos h14])
  next h14 =>
    simp only [Fetch.read_bind_eq_ok, Fetch.read_map_eq_ok, directBits_read, bitTreeRev_read] at h
    obtain ⟨dir, mid, ⟨hdir, hbits⟩, low, ⟨hlow, hmid⟩, rfl⟩ := h
    have hnd : 4 ≤ slotNd slot := by rw [slotNd_eq]; simp only [Config.endPosModelIndex] at h14; omega
    have hpow : 2 ^ slotNd slot = 2 ^ (slotNd slot - 4) * 16 := (pow_sub_mul_pow 2 hnd).symm
    have hsplit : (dir * 16 + low) / 16 = dir ∧ (dir * 16 + low) % 16 = low := by omega
    rw [Nat.shiftLeft_eq, Nat.add_assoc]
    refine inSlot (by omega) (by omega) ?_
    rw [encodeDistTail, if_neg h4, if_neg h14, Nat.shiftRight_eq_div_pow, hsplit.1, hsplit.2, hbits, hmid,
      List.append_assoc]

/-- A distance field reads the decisions of a distance (30_encoding.md R108 to R110). -/
theorem distField_read {len : Nat} {d : U32} {bits rest : List Bool}
    (h : (distField len).read bits = .ok (d, rest)) : bits = encodeDist d ++ rest := by
  simp only [distField, Fetch.read_map_eq_ok, Fetch.read_bind_eq_ok, bitTree_read] at h
  obtain ⟨n, ⟨slot, mid, ⟨hslot, rfl⟩, htail⟩, rfl⟩ := h
  obtain ⟨hs, hn, rfl⟩ := distTail_read hslot htail
  have hd : (BitVec.ofNat 32 n).toNat = n := Nat.mod_eq_of_lt hn
  rw [encodeDist, hd, hs, List.append_assoc]

/-- A literal field reads the eight bits of its byte, plain or matched (42_state_machine.md R200, R201). -/
theorem literalField_read {k : Fin 4096} {mode : LiteralMode} {b : Byte} {bits rest : List Bool}
    (h : (literalField k mode).read bits = .ok (b, rest)) : bits = bitsMsb 8 b.toNat ++ rest := by
  have ofSym {x : Nat} (hx : ShiftsIn 8 1 bits rest x) :
      bits = bitsMsb 8 (BitVec.ofNat 8 (x - 0x100)).toNat ++ rest := by
    obtain ⟨v, hv, hbits, rfl⟩ := hx
    rwa [show 2 ^ 8 * 1 + v - 0x100 = v by omega, BitVec.toNat_ofNat, Nat.mod_eq_of_lt hv]
  cases mode with
  | plain =>
    obtain ⟨x, hx, rfl⟩ := Fetch.read_map_eq_ok.mp h
    exact ofSym (literalPlainFrom_read.mp hx)
  | matched mb =>
    obtain ⟨x, hx, rfl⟩ := Fetch.read_map_eq_ok.mp h
    exact ofSym (literalMatchedFrom_read.mp hx)
  | unreadable => simp [literalField, Fetch.read] at h

/-! ### The symbols -/

/-- `bits` is the encoding of the well-formed `y`, then `rest`. -/
def Spells (bits : List Bool) (y : Symbol) (rest : List Bool) : Prop :=
  y.wf = true ∧ bits = encodeSymbol y ++ rest

theorem matchField_read {ps : Fin 16} {bits rest : List Bool} {y : Symbol}
    (h : (matchField ps).read bits = .ok (y, rest)) : Spells (true :: false :: bits) y rest := by
  simp only [matchField, Fetch.read_bind_eq_ok, Fetch.read_map_eq_ok] at h
  obtain ⟨len, mid, hlen, dist, hdist, rfl⟩ := h
  obtain ⟨hwf, rfl⟩ := lenField_read hlen
  obtain rfl := distField_read hdist
  split
  next heos => exact ⟨hwf, by simp [encodeSymbol, heos]⟩
  next hne => exact ⟨by simpa [Symbol.wf, Symbol.toInstr, Instr.wf, hwf] using hne, by simp [encodeSymbol]⟩

theorem longRepField_read {ps : Fin 16} {check : Option FailKind} {mk : Nat → Symbol} {bits rest : List Bool}
    {y : Symbol} (h : (longRepField ps check mk).read bits = .ok (y, rest)) :
    ∃ len, y = mk len ∧ lenOk len = true ∧ bits = encodeLen len ++ rest := by
  simp only [longRepField, Fetch.read_guarded_eq_ok, Fetch.read_map_eq_ok] at h
  obtain ⟨-, len, hlen, rfl⟩ := h
  exact ⟨len, rfl, lenField_read hlen⟩

theorem repField_read {c : Context} {bits rest : List Bool} {y : Symbol}
    (h : (repField c).read bits = .ok (y, rest)) : Spells (true :: true :: bits) y rest := by
  simp only [repField, Fetch.read_guarded_eq_ok, read_decide1_eq_ok] at h
  obtain ⟨-, tail, ⟨rfl, tail, ⟨rfl, h⟩ | ⟨rfl, h⟩⟩ |
    ⟨rfl, tail, ⟨rfl, h⟩ | ⟨rfl, tail, ⟨rfl, h⟩ | ⟨rfl, h⟩⟩⟩⟩ := h
  · simp only [Fetch.read, Except.ok.injEq, Prod.mk.injEq] at h
    obtain ⟨rfl, rfl⟩ := h
    exact ⟨rfl, rfl⟩
  all_goals
    obtain ⟨len, rfl, hwf, rfl⟩ := longRepField_read h
    exact ⟨hwf, rfl⟩

/-- In every context the grammar reads nothing but encodings of well-formed symbols (30_encoding.md R103, R116). -/
theorem symbolFetch_read {c : Context} {bits rest : List Bool} {y : Symbol}
    (h : (symbolFetch c).read bits = .ok (y, rest)) : Spells bits y rest := by
  simp only [symbolFetch, read_decide1_eq_ok] at h
  obtain ⟨tail, ⟨rfl, h⟩ | ⟨rfl, tail, ⟨rfl, h⟩ | ⟨rfl, h⟩⟩⟩ := h
  · obtain ⟨b, hb, rfl⟩ := Fetch.read_map_eq_ok.mp h
    exact ⟨rfl, congrArg _ (literalField_read hb)⟩
  · exact matchField_read h
  · exact repField_read h

end Sys2Proof

namespace Sys2Proof.Machine

/-- Where the range decoder reads a tree, the same decisions from a list read it, and each took at most a byte
(40_range_decoder.md R141). -/
theorem runFetch_decisions {α : Type} {p : Fetch α} {s t : State} {a : α} (h : runFetch p s = .ok a t) :
    ∃ bits, p.read bits = .ok (a, []) ∧ s.cursor ≤ t.cursor ∧ t.cursor ≤ s.cursor + bits.length := by
  induction p generalizing s with
  | done x =>
    simp only [runFetch, Res.ok.injEq] at h
    obtain ⟨rfl, rfl⟩ := h
    exact ⟨[], rfl, Nat.le_refl _, Nat.le_refl _⟩
  | fail k => simp [runFetch] at h
  | ask d next ih =>
    have hcursor := takeDecision_cursor d s
    simp only [runFetch] at h
    cases hd : takeDecision d s with
    | ok b u =>
      rw [hd] at h hcursor
      obtain ⟨bits, hread, hlow, hhigh⟩ := ih b h
      rw [Res.state_ok] at hcursor
      exact ⟨b :: bits, hread, by omega, by rw [List.length_cons]; omega⟩
    | fail k u => rw [hd] at h; simp at h

/-- Settles O49: the decisions read are the symbol's encoding, by `symbolFetch_read`. -/
theorem bytesPerSymbol : Obligations.BytesPerSymbol := by
  intro s t y h
  obtain ⟨bits, hread, hlow, hhigh⟩ := runFetch_decisions h
  obtain ⟨hwf, rfl⟩ := symbolFetch_read hread
  rw [List.append_nil] at hhigh
  exact ⟨hwf, hlow, hhigh⟩

end Sys2Proof.Machine

/-! ## Input past what is needed (20_memory.md R74, 40_range_decoder.md R149) -/

namespace Sys2Proof.Machine

/-- `s` with bytes appended to its input. -/
def State.moreInput (extra : List Byte) (s : State) : State := { s with inp := s.inp ++ extra }

/-- The same for what a part of a command gives. -/
def Res.moreInput {α : Type} (extra : List Byte) : Res α → Res α
  | .ok a s => .ok a (s.moreInput extra)
  | .fail k s => .fail k (s.moreInput extra)

/-- The session has failed with the kind that a missing byte raises. -/
def OutOfInput (s : State) : Prop := s.status = .failed ∧ s.errKind = some .rangeDecoderInitFailure

section
variable (extra : List Byte)

@[simp] theorem State.moreInput_status (s : State) : (s.moreInput extra).status = s.status := rfl
@[simp] theorem State.moreInput_range (s : State) : (s.moreInput extra).range = s.range := rfl
@[simp] theorem State.moreInput_out (s : State) : (s.moreInput extra).out = s.out := rfl
@[simp] theorem State.moreInput_cursor (s : State) : (s.moreInput extra).cursor = s.cursor := rfl
@[simp] theorem State.moreInput_inp (s : State) : (s.moreInput extra).inp = s.inp ++ extra := rfl

@[simp] theorem Res.moreInput_ok {α : Type} (a : α) (s : State) :
    (Res.ok a s).moreInput extra = .ok a (s.moreInput extra) := rfl

@[simp] theorem Res.moreInput_fail {α : Type} (k : FailKind) (s : State) :
    (Res.fail k s : Res α).moreInput extra = .fail k (s.moreInput extra) := rfl

theorem Res.settle_moreInput {r r' : Res Unit} (h : r' = r.moreInput extra) :
    r'.settle = r.settle.moreInput extra := by
  subst h
  cases r <;> rfl

/-- A sequence of parts that more input leaves alone is one. -/
theorem Res.andThen_moreInput {α β : Type} {r r' : Res α} {f g : α → State → Res β} (hr : r' = r.moreInput extra)
    (hf : ∀ a s, g a (s.moreInput extra) = (f a s).moreInput extra) :
    r'.andThen g = (r.andThen f).moreInput extra := by
  subst hr
  cases r with
  | ok a s => exact hf a s
  | fail k s => rfl

/-! ### Symbols never look at the input -/

theorem failIf_moreInput (check : Option FailKind) (s : State) :
    failIf check (s.moreInput extra) = (failIf check s).moreInput extra := by
  cases check <;> rfl

theorem copyToWindow_moreInput (d : U32) (n : Nat) (s : State) :
    copyToWindow d n (s.moreInput extra) = (copyToWindow d n s).moreInput extra := by
  unfold copyToWindow
  rw [State.moreInput_out]
  cases winCopy d n s.out <;> rfl

theorem countDown_moreInput (n : Nat) (s : State) :
    countDown n (s.moreInput extra) = (countDown n s).moreInput extra := by
  rw [countDown_eq, countDown_eq]
  rfl

theorem promoteRep_moreInput (k : Fin 4) (s : State) :
    promoteRep k (s.moreInput extra) = (promoteRep k s).moreInput extra := by
  fin_cases k <;> rfl

theorem newMatchEffect_moreInput (len : Nat) (dist : U32) (s : State) :
    newMatchEffect len dist (s.moreInput extra) = (newMatchEffect len dist s).moreInput extra := by
  unfold newMatchEffect
  refine Res.settle_moreInput extra ?_
  refine Res.andThen_moreInput extra (failIf_moreInput extra _ s) fun _ s => ?_
  refine Res.andThen_moreInput extra (failIf_moreInput extra _ s) fun _ s => ?_
  refine Res.andThen_moreInput extra (copyToWindow_moreInput extra dist len
    { pushRep dist s with lzmaState := updateMatch s.lzmaState }) fun _ s => ?_
  exact congrArg (Res.ok ()) (countDown_moreInput extra len s)

theorem shortRepEffect_moreInput (s : State) :
    shortRepEffect (s.moreInput extra) = (shortRepEffect s).moreInput extra := by
  unfold shortRepEffect
  refine Res.settle_moreInput extra ?_
  refine Res.andThen_moreInput extra (failIf_moreInput extra _ s) fun _ s => ?_
  refine Res.andThen_moreInput extra (copyToWindow_moreInput extra s.rep0 1
    { s with lzmaState := updateShortRep s.lzmaState }) fun _ s => ?_
  exact congrArg (Res.ok ()) (countDown_moreInput extra 1 s)

theorem longRepEffect_moreInput (k : Fin 4) (len : Nat) (s : State) :
    longRepEffect k len (s.moreInput extra) = (longRepEffect k len s).moreInput extra := by
  have hrep (s : State) : repAt k (s.moreInput extra) = repAt k s := by fin_cases k <;> rfl
  unfold longRepEffect
  refine Res.settle_moreInput extra ?_
  simp only [hrep]
  refine Res.andThen_moreInput extra (failIf_moreInput extra _ s) fun _ s => ?_
  refine Res.andThen_moreInput extra (failIf_moreInput extra _ s) fun _ s => ?_
  rw [hrep, promoteRep_moreInput]
  refine Res.andThen_moreInput extra (copyToWindow_moreInput extra (repAt k s) len
    { promoteRep k s with lzmaState := updateRep s.lzmaState }) fun _ s => ?_
  exact congrArg (Res.ok ()) (countDown_moreInput extra len s)

theorem eosEffect_moreInput (len : Nat) (s : State) :
    eosEffect len (s.moreInput extra) = (eosEffect len s).moreInput extra :=
  (apply_ite (State.moreInput extra) (s.bounded = true) (raiseFail .prematureEndMarker s)
    (reachDone .endMarker s)).symm

theorem symbolEffect_moreInput (y : Symbol) (s : State) :
    symbolEffect y (s.moreInput extra) = (symbolEffect y s).moreInput extra := by
  cases y with
  | lit b => exact countDown_moreInput extra 1 { s with out := winPut b s.out, lzmaState := updateLiteral s.lzmaState }
  | newMatch len dist => exact newMatchEffect_moreInput extra len dist s
  | eos len => exact eosEffect_moreInput extra len s
  | shortRep => exact shortRepEffect_moreInput extra s
  | longRep0 len => exact longRepEffect_moreInput extra 0 len s
  | longRep1 len => exact longRepEffect_moreInput extra 1 len s
  | longRep2 len => exact longRepEffect_moreInput extra 2 len s
  | longRep3 len => exact longRepEffect_moreInput extra 3 len s

/-! ### Decoding looks at the next byte alone -/

/-- Normalize does the same, unless it lacks its byte (40_range_decoder.md R141). -/
theorem normalize_moreInput (s : State) :
    normalize (s.moreInput extra) = (normalize s).moreInput extra ∨
      normalize s = .fail .rangeDecoderInitFailure s := by
  rcases normalize_cases s with ⟨hr, h⟩ | ⟨hr, b, hc, hb, h⟩ | ⟨-, -, h⟩
  · left
    rw [h, normalize, State.moreInput_range, if_neg (BitVec.not_lt.mpr hr)]
    rfl
  · left
    have hread : readByte (s.moreInput extra) = .ok b { s.moreInput extra with cursor := s.cursor + 1 } := by
      have hb' : (s.moreInput extra).inp.read (s.moreInput extra).cursor = some b :=
        (Memory.read_append_left extra hc).trans hb
      rw [readByte, hb']
      rfl
    rw [h, normalize, State.moreInput_range, if_pos hr, hread]
    rfl
  · exact .inr h

/-- A direct bit 1 (40_range_decoder.md R145). -/
theorem takeDirect_of_le {s : State} (h : s.range >>> 1 ≤ s.code) :
    takeDirect s = (true, { s with range := s.range >>> 1, code := s.code - (s.range >>> 1) }) := if_pos h

/-- A direct bit 0 (40_range_decoder.md R145). -/
theorem takeDirect_of_not_le {s : State} (h : ¬ s.range >>> 1 ≤ s.code) :
    takeDirect s = (false, { s with range := s.range >>> 1 }) := if_neg h

theorem decisionState_moreInput (d : Decision) (s : State) :
    decisionState d (s.moreInput extra) = (decisionState d s).moreInput extra := by
  cases d with
  | adaptive slot =>
    exact (apply_ite (State.moreInput extra) (s.code < boundOf slot s) (takeZero slot s) (takeOne slot s)).symm
  | direct =>
    by_cases h : s.range >>> 1 ≤ s.code
    · rw [decisionState, decisionState, takeDirect_of_le h, takeDirect_of_le (s := s.moreInput extra) h]
      rfl
    · rw [decisionState, decisionState, takeDirect_of_not_le h, takeDirect_of_not_le (s := s.moreInput extra) h]
      rfl

theorem decisionBit_moreInput (d : Decision) (s : State) : decisionBit d (s.moreInput extra) = decisionBit d s := by
  cases d <;> rfl

/-- A decision does the same, unless it runs out of input. -/
theorem takeDecision_moreInput (d : Decision) (s : State) :
    takeDecision d (s.moreInput extra) = (takeDecision d s).moreInput extra ∨
      ∃ u, takeDecision d s = .fail .rangeDecoderInitFailure u := by
  rw [takeDecision_eq, takeDecision_eq, decisionState_moreInput, decisionBit_moreInput]
  rcases normalize_moreInput extra (decisionState d s) with h | h
  · exact .inl (Res.andThen_moreInput extra h fun _ _ => rfl)
  · exact .inr ⟨_, by rw [h]; rfl⟩

/-- The decoding of a tree does the same, unless one of its decisions runs out of input. -/
theorem runFetch_moreInput {α : Type} (p : Fetch α) (s : State) :
    runFetch p (s.moreInput extra) = (runFetch p s).moreInput extra ∨
      ∃ u, runFetch p s = .fail .rangeDecoderInitFailure u := by
  induction p generalizing s with
  | done a => exact .inl rfl
  | fail k => exact .inl rfl
  | ask d next ih =>
    simp only [runFetch]
    rcases takeDecision_moreInput extra d s with h | ⟨u, h⟩
    · rw [h]
      cases takeDecision d s with
      | ok b u => exact ih b u
      | fail k u => exact .inl rfl
    · rw [h]
      exact .inr ⟨u, rfl⟩

theorem decodeSymbolStep_moreInput (s : State) :
    decodeSymbolStep (s.moreInput extra) = (decodeSymbolStep s).moreInput extra ∨ OutOfInput (decodeSymbolStep s) := by
  have hctx : contextOf (s.moreInput extra) = contextOf s := rfl
  unfold decodeSymbolStep fetchSymbol
  rw [hctx]
  rcases runFetch_moreInput extra (symbolFetch (contextOf s)) s with h | ⟨u, h⟩
  · rw [h]
    left
    cases runFetch (symbolFetch (contextOf s)) s with
    | ok y u => exact symbolEffect_moreInput extra y u
    | fail k u => rfl
  · rw [h]
    exact .inr ⟨rfl, rfl⟩

/-! ### The commands -/

/-- A STEP does the same, unless it runs out of input, in Running alone (45_decode_loop.md R280). -/
theorem stepEffect_moreInput (s : State) :
    stepEffect (s.moreInput extra) = (stepEffect s).moreInput extra ∨
      (s.status = .running ∧ OutOfInput (stepEffect s)) := by
  by_cases hs : s.status = .running
  · have hsize : sizeReached (respondOk (s.moreInput extra)) = sizeReached (respondOk s) := rfl
    rw [stepEffect_running hs, stepEffect_running (s := s.moreInput extra) hs, runningStep, runningStep, hsize]
    cases sizeReached (respondOk s) with
    | true => exact .inl rfl
    | false => exact (decodeSymbolStep_moreInput extra (respondOk s)).imp_right fun h => ⟨hs, h⟩
  · left
    unfold stepEffect
    rw [State.moreInput_status]
    cases h : s.status with
    | running => exact absurd h hs
    | _ => rfl

theorem runLoop_of_not_running {n : Nat} {s : State} (h : s.status ≠ .running) : runLoop n s = some s := by
  cases n <;> simp [runLoop, h]

/-- RUN's loop does the same STEPs under any larger bound, unless it runs out of input (45_decode_loop.md R295). -/
theorem runLoop_moreInput {n m : Nat} {s t : State} (hnm : n ≤ m) (h : runLoop n s = some t)
    (ht : ¬ (s.status = .running ∧ OutOfInput t)) : runLoop m (s.moreInput extra) = some (t.moreInput extra) := by
  induction n generalizing m s with
  | zero =>
    by_cases hs : s.status = .running
    · simp [runLoop, hs] at h
    · obtain rfl := Option.some.inj ((runLoop_of_not_running hs).symm.trans h)
      exact runLoop_of_not_running hs
  | succ n ih =>
    by_cases hs : s.status = .running
    · obtain ⟨m, rfl⟩ : ∃ m', m = m' + 1 := ⟨m - 1, by omega⟩
      rw [runLoop, if_pos hs] at h
      rw [runLoop, State.moreInput_status, if_pos hs]
      rcases stepEffect_moreInput extra s with hstep | ⟨-, hout⟩
      · rw [hstep]
        exact ih (by omega) h fun ⟨_, hout⟩ => ht ⟨hs, hout⟩
      · have hstop : (stepEffect s).status ≠ .running := by simp [hout.1]
        obtain rfl := Option.some.inj ((runLoop_of_not_running hstop).symm.trans h)
        exact absurd ⟨hs, hout⟩ ht
    · obtain rfl := Option.some.inj ((runLoop_of_not_running hs).symm.trans h)
      exact runLoop_of_not_running hs

variable {extra} {s t : State}

theorem execRun_moreInput (h : execRun s = .next t) (ht : ¬ (s.status = .running ∧ OutOfInput t)) :
    execRun (s.moreInput extra) = .next (t.moreInput extra) := by
  have toEnd (h : runToEnd s = .next t) : runToEnd (s.moreInput extra) = .next (t.moreInput extra) := by
    have hbound : runBound s ≤ runBound (s.moreInput extra) := by
      simp only [runBound, State.moreInput_inp, State.moreInput_cursor, List.length_append]
      exact Nat.mul_le_mul_left _ (by omega)
    unfold runToEnd at h
    split at h
    · next u hu =>
      cases h
      have hloop : runLoop (runBound (s.moreInput extra)) (respondOk (s.moreInput extra)) = some (t.moreInput extra) :=
        runLoop_moreInput extra hbound hu ht
      rw [runToEnd, hloop]
    · cases h
  unfold execRun at h ⊢
  rw [State.moreInput_status]
  split at h
  case h_1 hs => cases h; rfl
  case h_2 hs => cases h; rfl
  all_goals exact toEnd h

theorem execStep_moreInput (h : execStep s = .next t) (ht : ¬ (s.status = .running ∧ OutOfInput t)) :
    execStep (s.moreInput extra) = .next (t.moreInput extra) := by
  cases h
  rcases stepEffect_moreInput extra s with hstep | hout
  · rw [execStep, hstep]
  · exact absurd hout ht

theorem execConfigure_moreInput {p : Byte} {d : U32} {m : SizeMode} (h : execConfigure p d m s = .next t) :
    execConfigure p d m (s.moreInput extra) = .next (t.moreInput extra) := by
  unfold execConfigure at h ⊢
  rw [State.moreInput_status]
  split_ifs at h ⊢ <;> cases h <;> rfl

theorem execFinalize_moreInput (h : execFinalize s = .next t) :
    execFinalize (s.moreInput extra) = .next (t.moreInput extra) := by
  have hok : isFinishedOk (s.moreInput extra) = isFinishedOk s := rfl
  unfold execFinalize at h ⊢
  rw [State.moreInput_status, hok]
  split_ifs at h ⊢ <;> cases h <;> rfl

/-- INIT's five bytes are the same, however many follow (40_range_decoder.md R140). -/
theorem initialized_moreInput (hlen : s.cursor + 5 ≤ s.inp.length) :
    initialized (s.moreInput extra) = (initialized s).moreInput extra := by
  have hbytes : ((s.inp ++ extra).drop (s.cursor + 1)).take 4 = (s.inp.drop (s.cursor + 1)).take 4 := by
    rw [List.drop_append_of_le_length (by omega), List.take_append_of_le_length (by rw [List.length_drop]; omega)]
  rw [initialized, State.moreInput_inp, State.moreInput_cursor, hbytes]
  rfl

theorem checkInitCode_moreInput (s : State) :
    checkInitCode (s.moreInput extra) = (checkInitCode s).moreInput extra :=
  (apply_ite (Res.moreInput extra) (s.range ≤ s.code ∧ s.initCodeCheck = .reject)
    (.fail .rangeDecoderInitFailure s) (.ok () s)).symm

/-- INIT does the same unless it lacks its five bytes. -/
theorem execInit_moreInput (h : execInit s = .next t) (hlen : s.status = .configured → s.cursor + 5 ≤ s.inp.length) :
    execInit (s.moreInput extra) = .next (t.moreInput extra) := by
  by_cases hs : s.status = .configured
  · have hlen' : (s.moreInput extra).cursor + 5 ≤ (s.moreInput extra).inp.length := by
      rw [State.moreInput_inp, List.length_append, State.moreInput_cursor]
      exact (hlen hs).trans (Nat.le_add_right _ _)
    rw [execInit_of_bytes hs (hlen hs)] at h
    cases h
    rw [execInit_of_bytes (s := s.moreInput extra) hs hlen', initialized_moreInput (hlen hs)]
    exact congrArg Host.Outcome.next (Res.settle_moreInput extra
      (Res.andThen_moreInput extra (checkInitCode_moreInput (initialized s)) fun _ _ => rfl))
  · rw [execInit_of_status_ne hs] at h
    cases h
    exact execInit_of_status_ne (s := s.moreInput extra) hs

theorem exec_symbol_moreInput (y : Symbol) (h : exec y.toInstr s = .next t) :
    exec y.toInstr (s.moreInput extra) = .next (t.moreInput extra) := by
  rw [exec_symbol] at h ⊢
  cases h
  rw [symbolEffect_moreInput]

end

/-- Settles O56: CONFIGURE, FINALIZE and the symbols' own rules never look at the input; the other commands do the same
with more of it, unless they lack a byte. -/
theorem trailingInputIsIgnored : Obligations.TrailingInputIsIgnored := by
  intro i s t extra h hneed
  have noStarve (hi : i ≠ .init) : ¬ (s.status = .running ∧ OutOfInput t) := by
    rintro ⟨hs, -, herr⟩
    rcases hneed with hne | ⟨rfl, -⟩ | hf
    · exact hne herr
    · exact hi rfl
    · simp [hs] at hf
  cases i with
  | lit b => exact exec_symbol_moreInput (.lit b) h
  | newMatch len dist => exact exec_symbol_moreInput (.newMatch len dist) h
  | eos len => exact exec_symbol_moreInput (.eos len) h
  | shortRep => exact exec_symbol_moreInput .shortRep h
  | longRep0 len => exact exec_symbol_moreInput (.longRep0 len) h
  | longRep1 len => exact exec_symbol_moreInput (.longRep1 len) h
  | longRep2 len => exact exec_symbol_moreInput (.longRep2 len) h
  | longRep3 len => exact exec_symbol_moreInput (.longRep3 len) h
  | configure p d m => exact execConfigure_moreInput h
  | finalize => exact execFinalize_moreInput h
  | step => exact execStep_moreInput h (noStarve (by simp))
  | run => exact execRun_moreInput h (noStarve (by simp))
  | init =>
    refine execInit_moreInput h fun hs => ?_
    rcases hneed with hne | ⟨-, hlen⟩ | hf
    · by_contra hlen
      have hfail : execInit s = .next t := h
      rw [execInit_of_short hs (by omega)] at hfail
      cases hfail
      exact hne rfl
    · exact hlen
    · simp [hs] at hf

end Sys2Proof.Machine

/-! ## The encoder read back (30_encoding.md R101 to R116) -/

namespace Sys2Proof

/-! ### Checks -/

/-- A check stands before what it guards, whatever that reads (60_exceptions.md R350). -/
theorem Fetch.read_guarded_congr {α : Type} {p q : Fetch α} {bits bits' : List Bool} (check : Option FailKind)
    (h : p.read bits = q.read bits') : (p.guarded check).read bits = (q.guarded check).read bits' := by
  cases check with
  | none => exact h
  | some k => rfl

/-- Of two checks in a row the first that fails decides (45_decode_loop.md R289, R290). -/
theorem Fetch.guarded_guarded {α : Type} (check check' : Option FailKind) (p : Fetch α) :
    (p.guarded check').guarded check = p.guarded (check.or check') := by
  cases check <;> rfl

/-! ### The operand fields -/

/-- Every length 2..273 is read back from its decisions (30_encoding.md R107). -/
theorem lenField_read_encodeLen {l : LenSet} {ps : Fin 16} {len : Nat} {rest : List Bool} (h : lenOk len = true) :
    (lenField l ps).read (encodeLen len ++ rest) = .ok (len, rest) := by
  obtain ⟨hlow, hhigh⟩ : 2 ≤ len ∧ len ≤ 273 := of_decide_eq_true h
  have sub {P : Nat → Slot} {n base : Nat} (hbase : base ≤ len) (hlt : len - base < 2 ^ n) :
      ((bitTree P n).map fun v => base + v).read (bitsMsb n (len - base) ++ rest) = .ok (len, rest) :=
    Fetch.read_map_eq_ok.mpr ⟨_, bitTree_read.mpr ⟨hlt, rfl⟩, Nat.add_sub_cancel' hbase⟩
  unfold encodeLen
  split
  next h10 => exact sub hlow (by omega)
  next h10 =>
  split
  next h18 => exact sub (by omega) (by omega)
  next h18 => exact sub (by omega) (by omega)

/-- A distance of 4 or more lies in the range of its slot (30_encoding.md R109, R110). -/
theorem eq_slotBase_distSlot_add {d : Nat} (h4 : 4 ≤ d) :
    4 ≤ distSlot d ∧ ∃ r < 2 ^ slotNd (distSlot d), d = slotBase (distSlot d) + r := by
  obtain ⟨n, hn⟩ : ∃ n, d.log2 = n + 2 :=
    Nat.exists_eq_add_of_le' ((Nat.le_log2 (by omega)).mpr h4)
  obtain ⟨hle, hlt⟩ := (Nat.log2_eq_iff (by omega)).mp hn
  have hslot : distSlot d = 2 * (n + 2) + d / 2 ^ (n + 1) % 2 := by
    rw [distSlot, if_neg (by omega), hn, Nat.shiftRight_eq_div_pow]
    rfl
  have hnd : slotNd (distSlot d) = n + 1 := by rw [slotNd_eq]; omega
  have hlead : d / 2 ^ (n + 1) = 2 + distSlot d % 2 := by
    have hge : 2 ≤ d / 2 ^ (n + 1) := (Nat.le_div_iff_mul_le (by positivity)).mpr (by rwa [← pow_succ'])
    have hlt4 : d / 2 ^ (n + 1) < 4 :=
      Nat.div_lt_of_lt_mul (by rwa [show 2 ^ (n + 1) * 4 = 2 ^ (n + 2 + 1) by ring])
    omega
  refine ⟨by omega, d % 2 ^ (n + 1), by rw [hnd]; exact Nat.mod_lt _ (by positivity), ?_⟩
  rw [slotBase_eq, hnd, ← hlead, Nat.mul_comm, Nat.div_add_mod]

/-- A 32-bit distance has a slot of six bits (30_encoding.md R109). -/
theorem distSlot_lt {d : Nat} (hd : d < 2 ^ 32) : distSlot d < 64 := by
  unfold distSlot
  split
  next h4 => omega
  next h4 =>
    have hlog : d.log2 < 32 := (Nat.log2_lt (by omega)).mpr hd
    omega

/-- What follows the slot of a distance reads it back (30_encoding.md R108, R109). -/
theorem distTail_read_encodeDistTail (d : Nat) (rest : List Bool) :
    (distTail (distSlot d)).read (encodeDistTail (distSlot d) (d - slotBase (distSlot d)) ++ rest) =
      .ok (d, rest) := by
  rcases Nat.lt_or_ge d 4 with hd | hd
  · simp [distTail, encodeDistTail, Fetch.read, distSlot, hd]
  obtain ⟨h4, r, hr, hsum⟩ := eq_slotBase_distSlot_add hd
  generalize distSlot d = slot at h4 hr hsum
  subst hsum
  rw [Nat.add_sub_cancel_left]
  have hge : ¬ slot < 4 := by omega
  rw [distTail, encodeDistTail, if_neg hge, if_neg hge]
  split
  next h14 => exact Fetch.read_map_eq_ok.mpr ⟨r, bitTreeRev_read.mpr ⟨hr, rfl⟩, rfl⟩
  next h14 =>
    have hnd : 4 ≤ slotNd slot := by rw [slotNd_eq]; simp only [Config.endPosModelIndex] at h14; omega
    have hpow : 2 ^ slotNd slot = 16 * 2 ^ (slotNd slot - 4) := (pow_mul_pow_sub 2 hnd).symm
    have hdir : r >>> 4 < 2 ^ (slotNd slot - 4) := by
      rw [Nat.shiftRight_eq_div_pow]
      exact Nat.div_lt_of_lt_mul (hpow ▸ hr)
    have hjoin : slotBase slot + (r >>> 4 <<< 4) + r % 16 = slotBase slot + r := by
      rw [Nat.shiftRight_eq_div_pow, Nat.shiftLeft_eq]
      omega
    rw [List.append_assoc]
    exact Fetch.read_bind_eq_ok.mpr ⟨_, _, directBits_read.mpr ⟨hdir, rfl⟩, Fetch.read_map_eq_ok.mpr
      ⟨_, bitTreeRev_read.mpr ⟨Nat.mod_lt _ (by decide), rfl⟩, hjoin⟩⟩

/-- Every distance is read back from its decisions, after any length (30_encoding.md R108 to R110). -/
theorem distField_read_encodeDist (len : Nat) (d : U32) (rest : List Bool) :
    (distField len).read (encodeDist d ++ rest) = .ok (d, rest) := by
  rw [encodeDist, List.append_assoc]
  exact Fetch.read_map_eq_ok.mpr ⟨d.toNat, Fetch.read_bind_eq_ok.mpr
    ⟨_, _, bitTree_read.mpr ⟨distSlot_lt d.isLt, rfl⟩, distTail_read_encodeDistTail d.toNat rest⟩,
    by simp⟩

/-- Every byte is read back from its eight bits, plain or matched; where there is no byte to match, the failure of log
entry 14 (42_state_machine.md R200 to R202). -/
theorem literalField_read_bitsMsb (k : Fin 4096) (mode : LiteralMode) (b : Byte) (rest : List Bool) :
    (literalField k mode).read (bitsMsb 8 b.toNat ++ rest) =
      ((Fetch.done b).guarded (if mode = .unreadable then some .insufficientHistoryForRepeat else none)).read rest := by
  have hsym : ShiftsIn 8 1 (bitsMsb 8 b.toNat ++ rest) rest (0x100 + b.toNat) := ⟨b.toNat, b.isLt, rfl, rfl⟩
  have hbyte : BitVec.ofNat 8 (0x100 + b.toNat - 0x100) = b := by simp
  cases mode with
  | plain => exact Fetch.read_map_eq_ok.mpr ⟨_, literalPlainFrom_read.mpr hsym, hbyte⟩
  | matched mb => exact Fetch.read_map_eq_ok.mpr ⟨_, literalMatchedFrom_read.mpr hsym, hbyte⟩
  | unreadable => rfl

/-! ### The symbols -/

/-- MATCH and EOS are told apart by the distance alone (30_encoding.md R112). -/
theorem matchField_read_encode {ps : Fin 16} {len : Nat} {d : U32} {y : Symbol} (rest : List Bool)
    (hlen : lenOk len = true) (hy : (if d = Config.eosDist then .eos len else .newMatch len d) = y) :
    (matchField ps).read (encodeLen len ++ encodeDist d ++ rest) = .ok (y, rest) := by
  rw [List.append_assoc]
  exact Fetch.read_bind_eq_ok.mpr ⟨_, _, lenField_read_encodeLen hlen, Fetch.read_map_eq_ok.mpr
    ⟨_, distField_read_encodeDist len d rest, hy⟩⟩

/-- A LONGREP reads its length once its rep passes CheckDist (45_decode_loop.md R289). -/
theorem longRepField_read_encodeLen {ps : Fin 16} {len : Nat} {rest : List Bool} (hlen : lenOk len = true)
    (check : Option FailKind) (mk : Nat → Symbol) :
    (longRepField ps check mk).read (encodeLen len ++ rest) = ((Fetch.done (mk len)).guarded check).read rest :=
  Fetch.read_guarded_congr check (Fetch.read_map_eq_ok.mpr ⟨_, lenField_read_encodeLen hlen, rfl⟩)

/-- In every context the decisions of a well-formed symbol read as that symbol behind the one check that the context
makes of it (30_encoding.md R101, R116; 45_decode_loop.md R289, R290). -/
theorem symbolFetch_read_encodeSymbol (c : Context) {y : Symbol} (rest : List Bool) (hy : y.wf = true) :
    (symbolFetch c).read (encodeSymbol y ++ rest) = ((Fetch.done y).guarded (Machine.contextCheck c y)).read rest := by
  have longRep {len : Nat} {q : Fetch Symbol} {bits : List Bool} {check : Option FailKind} {mk : Nat → Symbol}
      (hlen : lenOk len = true)
      (hq : q.read bits = (longRepField c.ps check mk).read (encodeLen len ++ rest)) :
      (q.guarded c.repPath).read bits = ((Fetch.done (mk len)).guarded (c.repPath.or check)).read rest := by
    rw [← Fetch.guarded_guarded]
    exact Fetch.read_guarded_congr _ (hq.trans (longRepField_read_encodeLen hlen check mk))
  cases y with
  | lit b =>
    show ((literalField c.litState c.literalMode).map Symbol.lit).read (bitsMsb 8 b.toNat ++ rest) = _
    rw [Fetch.read_map, literalField_read_bitsMsb, ← Fetch.read_map, Machine.contextCheck]
    split <;> rfl
  | newMatch len dist =>
    obtain ⟨hlen, hdist⟩ : lenOk len = true ∧ dist ≠ Config.eosDist := by
      simpa [Symbol.wf, Symbol.toInstr, Instr.wf] using hy
    exact matchField_read_encode rest hlen (if_neg hdist)
  | eos len => exact matchField_read_encode rest hy (if_pos rfl)
  | shortRep => exact Fetch.read_guarded_congr c.repPath rfl
  | longRep0 len => exact longRep hy rfl
  | longRep1 len => exact longRep hy rfl
  | longRep2 len => exact longRep hy rfl
  | longRep3 len => exact longRep hy rfl

/-- Settles O5: both clauses are the two outcomes of the symbol's one check. -/
theorem symbolReadInEveryContext : Obligations.SymbolReadInEveryContext := by
  intro c y rest hy
  rw [symbolFetch_read_encodeSymbol c rest hy]
  constructor
  · intro hnone
    rw [hnone]
    rfl
  · intro k hsome
    rw [hsome]
    rfl

/-! ### How many decisions (30_encoding.md R115) -/

@[simp] theorem bitsMsb_length (n v : Nat) : (bitsMsb n v).length = n := by
  induction n with
  | zero => rfl
  | succ n ih => rw [bitsMsb, List.length_cons, ih]

@[simp] theorem bitsLsb_length (n v : Nat) : (bitsLsb n v).length = n := by
  induction n generalizing v with
  | zero => rfl
  | succ n ih => rw [bitsLsb, List.length_cons, ih]

/-- `Lf` of R115, by the three ranges of R107. -/
theorem encodeLen_length (len : Nat) :
    (len ≤ 9 ∧ (encodeLen len).length = 4) ∨ (10 ≤ len ∧ len ≤ 17 ∧ (encodeLen len).length = 5) ∨
      (18 ≤ len ∧ (encodeLen len).length = 10) := by
  unfold encodeLen
  split
  next h10 => exact .inl ⟨by omega, by simp⟩
  next h10 =>
  split
  next h18 => exact .inr (.inl ⟨by omega, by omega, by simp⟩)
  next h18 => exact .inr (.inr ⟨by omega, by simp⟩)

/-- `6 + nd` of R115: the direct bits and the four align bits are together the `nd` of the slot. -/
theorem encodeDist_length (d : U32) :
    (encodeDist d).length = 6 + if distSlot d.toNat < 4 then 0 else slotNd (distSlot d.toNat) := by
  rw [encodeDist, List.length_append, bitsMsb_length, encodeDistTail]
  split
  next h4 => rfl
  next h4 =>
  split
  next h14 => rw [bitsLsb_length]
  next h14 =>
    have hnd : 4 ≤ slotNd (distSlot d.toNat) := by
      rw [slotNd_eq]; simp only [Config.endPosModelIndex] at h14; omega
    rw [List.length_append, bitsMsb_length, bitsLsb_length, Nat.sub_add_cancel hnd]

/-- The end marker has slot 63 (30_encoding.md R112). -/
theorem encodeDist_eosDist_length : (encodeDist Config.eosDist).length = 6 + 30 := by
  rw [encodeDist_length]
  decide

theorem encodeDist_length_le (d : U32) : (encodeDist d).length ≤ 6 + 30 := by
  have hslot := distSlot_lt d.isLt
  rw [encodeDist_length, slotNd_eq]
  split <;> omega

/-- The longest symbol: a MATCH of a high-tree length and slot 62 or 63. -/
theorem encodeSymbol_length_le (y : Symbol) : (encodeSymbol y).length ≤ 48 := by
  have field (len : Nat) : (encodeLen len).length ≤ 10 := by
    have := encodeLen_length len
    omega
  have copy (len : Nat) (d : U32) : ([true, false] ++ encodeLen len ++ encodeDist d).length ≤ 48 := by
    have hlen := field len
    have hdist := encodeDist_length_le d
    simp only [List.length_append, List.length_cons, List.length_nil]
    omega
  cases y with
  | lit b => simp [encodeSymbol]
  | newMatch len dist => exact copy len dist
  | eos len => exact copy len Config.eosDist
  | shortRep => simp [encodeSymbol]
  | longRep0 len | longRep1 len | longRep2 len | longRep3 len =>
    have hlen := field len
    simp only [encodeSymbol, List.length_append, List.length_cons, List.length_nil]
    omega

/-- Settles O8, field by field; `Lf` is the number of decisions of the length field. -/
theorem decisionCounts : Obligations.DecisionCounts := by
  refine ⟨fun b => rfl, rfl, fun len _ _ => ⟨(encodeLen len).length, ?_⟩, fun y _ => encodeSymbol_length_le y⟩
  refine ⟨encodeLen_length len, fun dist => ?_, ?_, ?_, ?_, ?_, ?_⟩
  · rw [encodeSymbol, List.length_append, List.length_append, encodeDist_length, ← Nat.add_assoc]
    rfl
  · rw [encodeSymbol, List.length_append, List.length_append, encodeDist_eosDist_length, ← Nat.add_assoc]
    rfl
  all_goals exact List.length_append

/-! ### Every long enough sequence holds a symbol (30_encoding.md R103) -/

/-- `p` raises no failure and reads at most `n` decisions, whatever they are. -/
def ReadsWithin {α : Type} (n : Nat) (p : Fetch α) : Prop :=
  ∀ bits : List Bool, n ≤ bits.length → ∃ a rest, p.read bits = .ok (a, rest) ∧ bits.length ≤ rest.length + n

theorem ReadsWithin.done {α : Type} (a : α) : ReadsWithin 0 (.done a) :=
  fun bits _ => ⟨a, bits, rfl, Nat.le_refl _⟩

theorem ReadsWithin.ask {α : Type} {n : Nat} {d : Decision} {next : Bool → Fetch α}
    (h : ∀ b, ReadsWithin n (next b)) : ReadsWithin (n + 1) (.ask d next) := by
  rintro (_ | ⟨b, bits⟩) hlen
  · simp at hlen
  · obtain ⟨a, rest, hread, hrest⟩ := h b bits (Nat.le_of_succ_le_succ hlen)
    exact ⟨a, rest, hread, Nat.succ_le_succ hrest⟩

theorem ReadsWithin.mono {α : Type} {n m : Nat} {p : Fetch α} (h : ReadsWithin n p) (hnm : n ≤ m) :
    ReadsWithin m p := by
  intro bits hlen
  obtain ⟨a, rest, hread, hrest⟩ := h bits (hnm.trans hlen)
  exact ⟨a, rest, hread, by omega⟩

/-- Only the values that `p` gives need be followed. -/
theorem ReadsWithin.bind {α β : Type} {n m : Nat} {p : Fetch α} {f : α → Fetch β} (hp : ReadsWithin n p)
    (hf : ∀ a bits rest, p.read bits = .ok (a, rest) → ReadsWithin m (f a)) : ReadsWithin (n + m) (p.bind f) := by
  intro bits hlen
  obtain ⟨a, mid, hread, hmid⟩ := hp bits (by omega)
  obtain ⟨b, rest, hread', hrest⟩ := hf a bits mid hread mid (by omega)
  exact ⟨b, rest, Fetch.read_bind_eq_ok.mpr ⟨a, mid, hread, hread'⟩, by omega⟩

theorem ReadsWithin.map {α β : Type} {n : Nat} {p : Fetch α} {f : α → β} (hp : ReadsWithin n p) :
    ReadsWithin n (p.map f) :=
  hp.bind fun a _ _ _ => .done (f a)

theorem ReadsWithin.decide1 {α : Type} {n : Nat} {slot : Slot} {zero one : Fetch α} (h0 : ReadsWithin n zero)
    (h1 : ReadsWithin n one) : ReadsWithin (n + 1) (decide1 slot zero one) :=
  .ask fun b => by cases b; exacts [h0, h1]

theorem bitTree_readsWithin (P : Nat → Slot) (n off : Nat) : ReadsWithin n (bitTree P n off) := by
  have walk (Q : Nat → Slot) (n m : Nat) : ReadsWithin n (bitTreeFrom Q n m) := by
    induction n generalizing m with
    | zero => exact .done m
    | succ n ih => exact .ask fun _ => ih _
  exact (walk _ n 1).map

theorem bitTreeRev_readsWithin (P : Nat → Slot) (n off : Nat) : ReadsWithin n (bitTreeRev P n off) := by
  have walk (Q : Nat → Slot) (n i m sym : Nat) : ReadsWithin n (bitTreeRevFrom Q n i m sym) := by
    induction n generalizing i m sym with
    | zero => exact .done sym
    | succ n ih => exact .ask fun _ => ih _ _ _
  exact walk _ n 0 1 0

theorem directBits_readsWithin (n : Nat) : ReadsWithin n (directBits n) := by
  have walk (n res : Nat) : ReadsWithin n (directBitsFrom n res) := by
    induction n generalizing res with
    | zero => exact .done res
    | succ n ih => exact .ask fun _ => ih _
  exact walk n 0

theorem literalPlainFrom_readsWithin (P : Nat → Slot) (n sym : Nat) : ReadsWithin n (literalPlainFrom P n sym) := by
  induction n generalizing sym with
  | zero => exact .done sym
  | succ n ih => exact .ask fun _ => ih _

/-- The longest length field is that of the high tree (30_encoding.md R107). -/
theorem lenField_readsWithin (l : LenSet) (ps : Fin 16) : ReadsWithin 10 (lenField l ps) := by
  have low := (bitTree_readsWithin (fun m => .low l ps (Fin.ofNat 8 m)) 3 0).map (f := fun v => 2 + v)
  have mid := (bitTree_readsWithin (fun m => .mid l ps (Fin.ofNat 8 m)) 3 0).map (f := fun v => 10 + v)
  have high := (bitTree_readsWithin (fun m => .high l (Fin.ofNat 256 m)) 8 0).map (f := fun v => 18 + v)
  exact (low.mono (by decide)).decide1 ((mid.mono (by decide)).decide1 high)

/-- No slot of six bits is followed by more than 30 decisions (30_encoding.md R109). -/
theorem distTail_readsWithin {slot : Nat} (hslot : slot < 64) : ReadsWithin 30 (distTail slot) := by
  have hnd : slotNd slot ≤ 30 := by rw [slotNd_eq]; omega
  unfold distTail
  split
  next h4 => exact (ReadsWithin.done slot).mono (by decide)
  next h4 =>
  split
  next h14 => exact (bitTreeRev_readsWithin _ _ _).map.mono hnd
  next h14 =>
    exact ((directBits_readsWithin _).bind fun _ _ _ _ => (bitTreeRev_readsWithin _ 4 0).map).mono (by omega)

theorem distField_readsWithin (len : Nat) : ReadsWithin 36 (distField len) :=
  ((bitTree_readsWithin _ 6 0).bind fun _ _ _ h => distTail_readsWithin (bitTree_read.mp h).1).map

/-- Where the context makes no check fail, no kind and no operand field is illegal (30_encoding.md R103). -/
theorem symbolFetch_plain_readsWithin : ReadsWithin 48 (symbolFetch Context.plain) := by
  have lit : ReadsWithin 8 (literalField 0 .plain) := (literalPlainFrom_readsWithin _ 8 1).map
  have newMatch : ReadsWithin 46 (matchField 0) :=
    (lenField_readsWithin _ _).bind fun len _ _ _ => (distField_readsWithin len).map
  have longRep (mk : Nat → Symbol) : ReadsWithin 10 (longRepField 0 none mk) := (lenField_readsWithin _ _).map
  have rep : ReadsWithin 13 (repField Context.plain) :=
    .decide1 ((ReadsWithin.decide1 ((ReadsWithin.done _).mono (by decide)) (longRep _)).mono (by decide))
      (.decide1 ((longRep _).mono (by decide)) (.decide1 (longRep _) (longRep _)))
  exact .decide1 (lit.map.mono (by decide)) (.decide1 newMatch (rep.mono (by decide)))

/-- Settles O7, by `symbolFetch_plain_readsWithin`. -/
theorem everyDecisionSequenceDecodes : Obligations.EveryDecisionSequenceDecodes := by
  intro bits hlen
  obtain ⟨y, rest, hread, -⟩ := symbolFetch_plain_readsWithin bits hlen
  exact ⟨y, rest, hread⟩

/-! ### Words and commands (30_encoding.md R102 to R119) -/

/-- Settles O9: each word is closed, and the decoder runs on it. -/
theorem symbolWords : Obligations.SymbolWords := by
  refine ⟨?lit, ?slot0, ?slot13, ?slot14, ?eos, ?shortRep, ?longRep0, ?longRep1, ?longRep2, ?longRep3⟩ <;> rfl

theorem decodeCall_of_unassigned {c : Call} (h : c.code.toNat = 0 ∨ 6 ≤ c.code.toNat) :
    decodeCall c = .error (.unassignedCode c.code) := by
  unfold decodeCall
  split
  case h_6 => rfl
  all_goals omega

end Sys2Proof

namespace Sys2Proof.Machine

/-- Settles O10: the assigned codes by computation, the others by `step_of_unassigned`. -/
theorem commandCodes : Obligations.CommandCodes :=
  ⟨fun _ _ _ => ⟨rfl, rfl, rfl, rfl, rfl⟩,
    fun _ _ _ hcode hcalls => step_of_unassigned hcalls (decodeCall_of_unassigned hcode)⟩

/-- Settles O22, by the cases of CONFIGURE. -/
theorem configureRejectsProperties : Obligations.ConfigureRejectsProperties := by
  constructor
  · intro p d m s hs hp
    rcases execConfigure_cases p d m s with ⟨hne, -⟩ | ⟨-, -, h⟩ | ⟨-, hlt, -⟩
    · exact absurd hs hne
    · exact h
    · exact absurd hp (Nat.not_le.mpr hlt)
  · intro p d m s hs hp
    rcases execConfigure_cases p d m s with ⟨hne, -⟩ | ⟨-, hle, -⟩ | ⟨-, -, h⟩
    · exact absurd hs hne
    · exact absurd hle (by simp only [Config.propsLimit]; omega)
    · exact ⟨_, h, rfl⟩

end Sys2Proof.Machine

/-! ## The range decoder in exact arithmetic (40_range_decoder.md R140 to R150) -/

namespace Sys2Proof.Machine

/-! ### Normalize -/

/-- A byte shifted into a word takes the place of the byte shifted out (20_memory.md R78). -/
theorem shiftByte_toNat (c : U32) (b : Byte) :
    ((c <<< 8) ||| b.setWidth 32).toNat = c.toNat * 256 % 2 ^ 32 + b.toNat := by
  have hb := b.isLt
  have hw : (b.setWidth 32).toNat = b.toNat := by rw [BitVec.toNat_setWidth]; omega
  have hhigh : c.toNat * 256 % 2 ^ 32 = 2 ^ 8 * (c.toNat % 2 ^ 24) := by omega
  rw [BitVec.toNat_or, BitVec.toNat_shiftLeft, Nat.shiftLeft_eq, hw, hhigh, Nat.two_pow_add_eq_or_of_lt hb]

/-- Normalize reads nothing while the range is at least 2^24 (40_range_decoder.md R141). -/
theorem normalize_of_top_le {s : State} (h : Config.top ≤ s.range) : normalize s = .ok () s :=
  if_neg (BitVec.not_lt.mpr h)

/-- Below 2^24 Normalize shifts in the byte at the cursor (40_range_decoder.md R141). -/
theorem normalize_of_read {s : State} {b : Byte} (hr : s.range < Config.top) (hb : s.inp.read s.cursor = some b) :
    normalize s = .ok () (shiftIn b s) := by
  rw [normalize, if_pos hr, readByte, hb]
  rfl

/-- Below 2^24 and at the end of the input Normalize fails and writes nothing (40_range_decoder.md R141). -/
theorem normalize_of_end {s : State} (hr : s.range < Config.top) (hc : s.inp.length ≤ s.cursor) :
    normalize s = .fail .rangeDecoderInitFailure s := by
  rw [normalize, if_pos hr, readByte, Memory.read_eq_none.mpr hc]
  rfl

/-- Settles O40, by the three cases of Normalize; the shifts are exact by `shiftIn_range_toNat` and `shiftByte_toNat`. -/
theorem normalizeOneByte : Obligations.NormalizeOneByte :=
  ⟨fun _ hr => normalize_of_top_le hr,
    fun s b hr hb =>
      ⟨shiftIn b s, normalize_of_read hr hb, rfl, shiftIn_range_toNat b hr, shiftByte_toNat s.code b⟩,
    fun _ hr hc => normalize_of_end hr hc.ge⟩

/-! ### INIT -/

/-- Four bytes shifted into 0 are their big-endian value (40_range_decoder.md R140). -/
theorem shiftBytes_four_toNat (b1 b2 b3 b4 : Byte) :
    (shiftBytes 0 [b1, b2, b3, b4]).toNat =
      b1.toNat * 2 ^ 24 + b2.toNat * 2 ^ 16 + b3.toNat * 2 ^ 8 + b4.toNat := by
  have h1 := b1.isLt
  have h2 := b2.isLt
  have h3 := b3.isLt
  simp only [shiftBytes, List.foldl_cons, List.foldl_nil, shiftByte_toNat]
  omega

/-- The registers after INIT's five bytes, by those bytes (40_range_decoder.md R140). -/
theorem initialized_of_drop {s : State} {b0 b1 b2 b3 b4 : Byte} {rest : List Byte} {c : U32}
    (hdrop : s.inp.drop s.cursor = b0 :: b1 :: b2 :: b3 :: b4 :: rest)
    (hc : c.toNat = b1.toNat * 2 ^ 24 + b2.toNat * 2 ^ 16 + b3.toNat * 2 ^ 8 + b4.toNat) :
    initialized s = { s with range := Config.rangeInit, code := c, cursor := s.cursor + 5 } := by
  have hcode : shiftBytes 0 [b1, b2, b3, b4] = c := BitVec.eq_of_toNat_eq ((shiftBytes_four_toNat ..).trans hc.symm)
  have htail : s.inp.drop (s.cursor + 1) = b1 :: b2 :: b3 :: b4 :: rest := by
    rw [← List.drop_drop, hdrop, List.drop_succ_cons, List.drop_zero]
  rw [initialized, htail, ← hcode]
  rfl

/-- No code but the largest reaches the initial range (40_range_decoder.md R140). -/
theorem rangeInit_le_iff {c : U32} : Config.rangeInit ≤ c ↔ c = 0xFFFFFFFF :=
  BitVec.allOnes_le_iff

/-- Settles O24: the bytes by `initialized_of_drop`, the check by `rangeInit_le_iff`. -/
theorem initReadsFiveBytes : Obligations.InitReadsFiveBytes := by
  refine ⟨fun s b0 b1 b2 b3 b4 rest c hs hdrop hc => ?_, fun s => execInit_of_short, fun s => execInit_of_status_ne⟩
  have hlen : s.cursor + 5 ≤ s.inp.length := by
    have hl := congrArg List.length hdrop
    simp only [List.length_drop, List.length_cons] at hl
    omega
  have hexec : exec .init s = _ := execInit_of_bytes hs hlen
  have hrejects : Config.rangeInit ≤ c ∧ s.initCodeCheck = .reject ↔ s.initCodeCheck = .reject ∧ c = 0xFFFFFFFF := by
    rw [rangeInit_le_iff, and_comm]
  rw [hexec, initialized_of_drop hdrop hc, checkInitCode]
  constructor <;> intro hcheck
  · rw [if_neg (mt hrejects.mp hcheck)]
    rfl
  · rw [if_pos (hrejects.mpr hcheck)]
    rfl

/-! ### DecodeBit and the direct bit -/

/-- `bound` is at most the range (40_range_decoder.md R143). -/
theorem boundOf_le_range (slot : Slot) (s : State) : boundOf slot s ≤ s.range := by
  have hp := (getProb slot s.probs).isLt
  have hle : s.range.toNat / 2048 * (getProb slot s.probs).toNat ≤ s.range.toNat / 2048 * 2048 :=
    Nat.mul_le_mul_left _ (by omega)
  rw [BitVec.le_def, boundOf_toNat]
  omega

/-- A decision 0 (40_range_decoder.md R142). -/
theorem decodeBit_of_lt {slot : Slot} {s : State} (h : s.code < boundOf slot s) :
    decodeBit slot s = (normalize (takeZero slot s)).andThen fun _ u => .ok false u := if_pos h

/-- A decision 1 (40_range_decoder.md R142). -/
theorem decodeBit_of_le {slot : Slot} {s : State} (h : boundOf slot s ≤ s.code) :
    decodeBit slot s = (normalize (takeOne slot s)).andThen fun _ u => .ok true u := if_neg (BitVec.not_lt.mpr h)

/-- A written slot reads the value written. -/
theorem getProb_setProb_same {st : ProbStore} (h : probWf st = true) (slot : Slot) (p : Prob) :
    getProb slot (setProb slot p st) = p := by
  rw [getProb_setProb h, if_pos rfl]

/-- A write leaves every other slot as it was. -/
theorem getProb_setProb_of_ne {st : ProbStore} (h : probWf st = true) {slot other : Slot} (hne : other ≠ slot)
    (p : Prob) : getProb other (setProb slot p st) = getProb other st := by
  rw [getProb_setProb h, if_neg hne]

/-- Settles O41, by the two registers' states `takeZero` and `takeOne`, whose differences do not wrap. -/
theorem decodeBitExact : Obligations.DecodeBitExact := by
  rintro slot s _ _ hwf rfl rfl
  have hle := boundOf_le_range slot s
  rw [← boundOf_toNat]
  refine ⟨(boundOf slot s).isLt, hle, fun hlt => ?zero, fun hge => ?one⟩
  case zero =>
    refine ⟨takeZero slot s, decodeBit_of_lt hlt, rfl, rfl, ?_, fun other hne => getProb_setProb_of_ne hwf hne _⟩
    rw [takeZero_probs, getProb_setProb_same hwf, probUp_toNat]
  case one =>
    refine ⟨takeOne slot s, decodeBit_of_le hge, rfl, BitVec.toNat_sub_of_le hle, BitVec.toNat_sub_of_le hge, ?_,
      fun other hne => getProb_setProb_of_ne hwf hne _⟩
    rw [takeOne_probs, getProb_setProb_same hwf, probDown_toNat]

/-- Half the range, as the direct bit takes it (40_range_decoder.md R145). -/
theorem halfRange_toNat (r : U32) : (r >>> 1).toNat = r.toNat / 2 := by
  rw [BitVec.toNat_ushiftRight, Nat.shiftRight_eq_div_pow, pow_one]

/-- A direct bit 1, then Normalize (40_range_decoder.md R145). -/
theorem decodeDirectBit_of_le {s : State} (h : s.range >>> 1 ≤ s.code) :
    decodeDirectBit s =
      (normalize { s with range := s.range >>> 1, code := s.code - (s.range >>> 1) }).andThen fun _ u => .ok true u := by
  rw [decodeDirectBit, takeDirect_of_le h]

/-- A direct bit 0, then Normalize (40_range_decoder.md R145). -/
theorem decodeDirectBit_of_lt {s : State} (h : s.code < s.range >>> 1) :
    decodeDirectBit s = (normalize { s with range := s.range >>> 1 }).andThen fun _ u => .ok false u := by
  rw [decodeDirectBit, takeDirect_of_not_le (BitVec.not_le.mpr h)]

/-- Settles O43, by the two values of a direct bit; the difference does not wrap. -/
theorem directBitHalves : Obligations.DirectBitHalves := by
  intro s
  rw [← halfRange_toNat]
  exact ⟨fun hge => ⟨_, decodeDirectBit_of_le hge, rfl, rfl, BitVec.toNat_sub_of_le hge⟩,
    fun hlt => ⟨_, decodeDirectBit_of_lt hlt, rfl, rfl⟩⟩

/-! ### What a decision keeps of range and code -/

/-- Settles O46, by `takeDecision_range`. -/
theorem rangeStaysNormalized : Obligations.RangeStaysNormalized :=
  fun _ _ _ _ hp hr h => takeDecision_range hp hr h

/-- A shift keeps the code below the range, since it loses nothing of either (40_range_decoder.md R147). -/
theorem shiftIn_code_lt_range {s : State} (b : Byte) (hr : s.range < Config.top) (h : s.code < s.range) :
    (shiftIn b s).code < (shiftIn b s).range := by
  have hr' : s.range.toNat < 2 ^ 24 := hr
  have h' : s.code.toNat < s.range.toNat := h
  have hb := b.isLt
  have hcode : (shiftIn b s).code.toNat = s.code.toNat * 256 % 2 ^ 32 + b.toNat := shiftByte_toNat s.code b
  rw [BitVec.lt_def, shiftIn_range_toNat b hr, hcode]
  omega

/-- Normalize keeps the code below the range the decision has left (40_range_decoder.md R147). -/
theorem takeDecision_code_lt_range {d : Decision} {s t : State} {b : Bool} (h : takeDecision d s = .ok b t)
    (hlt : (decisionState d s).code < (decisionState d s).range) : t.code < t.range := by
  rcases takeDecision_cases d s with ⟨-, hd⟩ | ⟨hr, byte, -, -, hd⟩ | ⟨-, -, hd⟩ <;> rw [hd] at h <;> cases h
  · exact hlt
  · exact shiftIn_code_lt_range byte hr hlt

/-- A decision that goes through gives its bit (40_range_decoder.md R142, R145). -/
theorem takeDecision_bit {d : Decision} {s t : State} {b : Bool} (h : takeDecision d s = .ok b t) :
    b = decisionBit d s := by
  rcases takeDecision_cases d s with ⟨-, hd⟩ | ⟨-, byte, -, -, hd⟩ | ⟨-, -, hd⟩ <;> rw [hd] at h <;> cases h <;> rfl

/-- An adaptive decision picks the part of the interval the code lies in (40_range_decoder.md R142, R147). -/
theorem decisionState_adaptive_code_lt_range {slot : Slot} {s : State} (h : s.code < s.range) :
    (decisionState (.adaptive slot) s).code < (decisionState (.adaptive slot) s).range := by
  simp only [decisionState]
  split
  case isTrue hlt => exact hlt
  case isFalse hnot =>
    have hge : boundOf slot s ≤ s.code := BitVec.not_lt.mp hnot
    rw [takeOne_code, takeOne_range, BitVec.lt_def, BitVec.toNat_sub_of_le hge,
      BitVec.toNat_sub_of_le (boundOf_le_range slot s)]
    exact Nat.sub_lt_sub_right hge h

/-- The two halves of a direct bit leave out the last value of an odd range (40_range_decoder.md R147). -/
theorem decisionState_direct_code_lt_range {s : State} (h : s.code < s.range)
    (hcorner : ¬ (s.range.toNat % 2 = 1 ∧ s.code.toNat = s.range.toNat - 1)) :
    (decisionState .direct s).code < (decisionState .direct s).range := by
  have h' : s.code.toNat < s.range.toNat := h
  by_cases hge : s.range >>> 1 ≤ s.code
  · have hsub := BitVec.toNat_sub_of_le hge
    rw [decisionState, takeDirect_of_le hge, BitVec.lt_def, hsub, halfRange_toNat]
    omega
  · rw [decisionState, takeDirect_of_not_le hge]
    exact BitVec.not_le.mp hge

/-- In the corner a direct bit gives 1 and leaves the code at the new range (40_range_decoder.md R147). -/
theorem takeDirect_corner {s : State} (hodd : s.range.toNat % 2 = 1) (hlast : s.code.toNat = s.range.toNat - 1) :
    (takeDirect s).2.code = (takeDirect s).2.range := by
  have hge : s.range >>> 1 ≤ s.code := by
    rw [BitVec.le_def, halfRange_toNat]
    omega
  rw [takeDirect_of_le hge]
  apply BitVec.eq_of_toNat_eq
  rw [BitVec.toNat_sub_of_le hge, halfRange_toNat]
  omega

/-- Settles O47: the registers before Normalize by the two lemmas above, Normalize by `takeDecision_code_lt_range`. -/
theorem codeStaysBelowRange : Obligations.CodeStaysBelowRange :=
  ⟨fun slot _ _ _ hlt h =>
      takeDecision_code_lt_range (d := .adaptive slot) h (decisionState_adaptive_code_lt_range hlt),
    fun _ _ _ hlt h hcorner =>
      takeDecision_code_lt_range (d := .direct) h (decisionState_direct_code_lt_range hlt hcorner),
    fun _ _ hodd hlast => takeDirect_corner hodd hlast⟩

/-- Settles O48: `bound` is at most the range, hence at most the code. -/
theorem codeAboveRangeDecodesOne : Obligations.CodeAboveRangeDecodesOne := by
  intro slot s t b hle h
  have hge : ¬ s.code < boundOf slot s := BitVec.not_lt.mpr (BitVec.le_trans (boundOf_le_range slot s) hle)
  have hbit : b = decisionBit (.adaptive slot) s := takeDecision_bit h
  rw [hbit, decisionBit, decide_eq_false hge, Bool.not_false]

end Sys2Proof.Machine

/-! ## Forward and reverse trees (41_bit_tree.md R173) -/

namespace Sys2Proof

/-- Two maps that agree on every value that a tree reads give one tree. -/
theorem Fetch.map_congr {α β : Type} {f g : α → β} {p : Fetch α}
    (h : ∀ bits a rest, p.read bits = .ok (a, rest) → f a = g a) : p.map f = p.map g := by
  induction p with
  | done a => exact congrArg Fetch.done (h [] a [] rfl)
  | fail k => rfl
  | ask d next ih => exact congrArg (Fetch.ask d) (funext fun b => ih b fun bits => h (b :: bits))

theorem Fetch.map_map {α β γ : Type} (f : α → β) (g : β → γ) (p : Fetch α) :
    (p.map f).map g = p.map fun a => g (f a) := by
  induction p with
  | done a => rfl
  | fail k => rfl
  | ask d next ih => exact congrArg (Fetch.ask d) (funext ih)

end Sys2Proof

namespace Sys2Proof.Machine

theorem reverseLow_congr {k v w : Nat} (h : ∀ i < k, v.testBit i = w.testBit i) : reverseLow k v = reverseLow k w := by
  induction k with
  | zero => rfl
  | succ k ih => rw [reverseLow, reverseLow, h k (Nat.lt_succ_self k), ih fun i hi => h i (Nat.lt_succ_of_lt hi)]

theorem reverseLow_testBit {k i : Nat} (v : Nat) (hi : i < k) : (reverseLow k v).testBit i = v.testBit (k - 1 - i) := by
  induction k generalizing i with
  | zero => exact absurd hi (Nat.not_lt_zero i)
  | succ k ih =>
    cases i with
    | zero => cases h : v.testBit k <;> simp [reverseLow, h]
    | succ i =>
      have hbool := Bool.toNat_le (v.testBit k)
      have hhalf : reverseLow (k + 1) v / 2 = reverseLow k v := by rw [reverseLow]; omega
      rw [Nat.testBit_succ, hhalf, ih (Nat.lt_of_succ_lt_succ hi)]
      congr 1
      omega

/-- The reverse walk is the forward walk with the `n` bits it shifts in reversed, put above the `i` bits it had so far
(41_bit_tree.md R170, R171). -/
theorem bitTreeRevFrom_eq_map (P : Nat → Slot) (n i m sym : Nat) :
    bitTreeRevFrom P n i m sym = (bitTreeFrom P n m).map fun x => sym ||| reverseLow n x <<< i := by
  induction n generalizing i m sym with
  | zero => simp [bitTreeRevFrom, bitTreeFrom, Fetch.map, Fetch.bind, reverseLow]
  | succ n ih =>
    refine congrArg (Fetch.ask (.adaptive (P m))) (funext fun b => (ih _ _ _).trans (Fetch.map_congr ?_))
    intro bits x rest hread
    obtain ⟨v, hv, -, rfl⟩ := bitTreeFrom_read.mp hread
    have hbit : (2 ^ n * ((m <<< 1) + b.toNat) + v).testBit n = b := by
      rw [Nat.testBit_two_pow_mul_add _ hv]
      cases b <;> simp [Nat.shiftLeft_eq, Nat.add_mod]
    rw [reverseLow, hbit, ← shift_or_bit, Nat.shiftLeft_or_distrib, ← Nat.shiftLeft_add, Nat.add_comm 1 i,
      Nat.or_assoc, Nat.or_comm (b.toNat <<< i)]

/-- A reverse tree is the forward tree with the bits of its value reversed (41_bit_tree.md R173). -/
theorem bitTreeRev_eq_map (P : Nat → Slot) (n off : Nat) :
    bitTreeRev P n off = (bitTree P n off).map (reverseLow n) := by
  rw [bitTreeRev, bitTreeRevFrom_eq_map, bitTree, Fetch.map_map]
  refine Fetch.map_congr fun bits x rest hread => ?_
  obtain ⟨v, hv, -, rfl⟩ := bitTreeFrom_read.mp hread
  rw [Nat.zero_or, Nat.shiftLeft_zero, Nat.one_shiftLeft, Nat.mul_one, Nat.add_sub_cancel_left]
  exact reverseLow_congr fun i hi => Nat.testBit_two_pow_add_gt hi v

theorem runFetch_map {α β : Type} (f : α → β) (p : Fetch α) (s : State) :
    runFetch (p.map f) s = (runFetch p s).andThen fun a t => .ok (f a) t :=
  runFetch_bind p _ s

theorem runFetch_bitTree_lt {P : Nat → Slot} {n off v : Nat} {s t : State}
    (h : runFetch (bitTree P n off) s = .ok v t) : v < 2 ^ n := by
  obtain ⟨bits, hread, -⟩ := runFetch_decisions h
  exact (bitTree_read.mp hread).1

/-- Settles O45: a value mapped changes no slot and no state, so all of it follows from `bitTreeRev_eq_map`. -/
theorem forwardAndReverseTreesAgree : Obligations.ForwardAndReverseTreesAgree := by
  intro P n off s
  rw [bitTreeRev_eq_map, runFetch_map]
  refine ⟨fun bits => (fetchSlots_map _ _ bits).symm, ?_⟩
  cases hrun : runFetch (bitTree P n off) s with
  | ok v t => exact ⟨rfl, runFetch_bitTree_lt hrun, reverseLow_lt n v, fun _ => reverseLow_testBit v⟩
  | fail k t => exact ⟨rfl, rfl⟩

end Sys2Proof.Machine

/-! ## The automaton and the indices at a symbol's start (42_state_machine.md R195 to R203) -/

namespace Sys2Proof.Machine

/-- EOS causes no transition, whether it ends the stream or fails (42_state_machine.md R195, 45_decode_loop.md R284). -/
theorem eosEffect_lzmaState (len : Nat) (s : State) : (eosEffect len s).lzmaState = s.lzmaState := by
  unfold eosEffect
  split
  · exact raiseFail_lzmaState _ s
  · exact reachDone_lzmaState _ s

/-- Settles O35: the four columns by evaluation on the twelve states, EOS by `eosEffect_lzmaState`. -/
theorem transitionTable : Obligations.TransitionTable := by
  refine ⟨by decide, by decide, by decide, by decide, fun len s t h => ?_⟩
  obtain rfl : eosEffect len s = t := Host.Outcome.next.inj h
  exact eosEffect_lzmaState len s

/-- `posState` needs no more than the four bits of its index (42_state_machine.md R196). -/
theorem posState_val (s : State) : (posState s).val = s.produced % 2 ^ s.pb.val := by
  have hpb : 2 ^ s.pb.val ≤ 2 ^ 4 := Nat.pow_le_pow_right (by decide) (Nat.le_of_lt_succ s.pb.isLt)
  have hlt : s.produced % 2 ^ s.pb.val < 2 ^ s.pb.val := Nat.mod_lt _ (by positivity)
  rw [posState, Nat.one_shiftLeft, Nat.and_two_pow_sub_one_eq_mod]
  exact Nat.mod_eq_of_lt (by omega)

/-- `litState` needs no more than the `lp + lc <= 12` bits of its index (42_state_machine.md R198). -/
theorem litState_val (s : State) :
    (litState s).val = s.produced % 2 ^ s.lp.val * 2 ^ s.lc.val + (prevByte s).toNat / 2 ^ (8 - s.lc.val) := by
  have hlc : s.lc.val ≤ 8 := Nat.le_of_lt_succ s.lc.isLt
  have hpos : s.produced % 2 ^ s.lp.val < 2 ^ s.lp.val := Nat.mod_lt _ (by positivity)
  have hbyte : (prevByte s).toNat / 2 ^ (8 - s.lc.val) < 2 ^ s.lc.val :=
    Nat.div_lt_of_lt_mul (by rw [pow_sub_mul_pow 2 hlc]; exact (prevByte s).isLt)
  have hlt : s.produced % 2 ^ s.lp.val * 2 ^ s.lc.val + (prevByte s).toNat / 2 ^ (8 - s.lc.val) < 4096 :=
    calc _ < (s.produced % 2 ^ s.lp.val + 1) * 2 ^ s.lc.val := by rw [Nat.succ_mul]; omega
      _ ≤ 2 ^ s.lp.val * 2 ^ s.lc.val := Nat.mul_le_mul_right _ hpos
      _ ≤ 2 ^ 4 * 2 ^ 8 := Nat.mul_le_mul (Nat.pow_le_pow_right (by decide) (Nat.le_of_lt_succ s.lp.isLt))
          (Nat.pow_le_pow_right (by decide) hlc)
  rw [litState, Nat.one_shiftLeft, Nat.and_two_pow_sub_one_eq_mod, Nat.shiftLeft_eq, Nat.shiftRight_eq_div_pow]
  exact Nat.mod_eq_of_lt hlt

/-- WinGet answers nothing past the output (44_output_window.md R262). -/
theorem winGet_of_le {d : U32} {out : Memory} (h : out.length ≤ d.toNat) : winGet d out = none :=
  if_neg (Nat.not_lt.mpr h)

/-- `prevByte` of an empty output (42_state_machine.md R199). -/
theorem prevByte_of_empty {s : State} (h : s.produced = 0) : prevByte s = 0 := by
  rw [prevByte, winGet_of_le (Nat.le_of_eq h), Option.getD_none]

/-- `prevByte` is the last byte of the output (42_state_machine.md R199). -/
theorem prevByte_of_last {s : State} {b : Byte} (h : s.out.getLast? = some b) : prevByte s = b := by
  have hne : s.out ≠ [] := fun he => by rw [he] at h; cases h
  have hget : winGet 0 s.out = some b :=
    winGet_eq_some.mpr ⟨List.length_pos_of_ne_nil hne, by rwa [List.getLast?_eq_getElem?] at h⟩
  rw [prevByte, hget, Option.getD_some]

/-- Below state 7 a literal is plain (42_state_machine.md R202). -/
theorem literalMode_of_lt {s : State} (h : s.lzmaState.val < 7) : literalMode s = .plain :=
  if_neg (Nat.not_le.mpr h)

/-- From state 7 on a literal is matched against the byte `rep0 + 1` back (42_state_machine.md R202). -/
theorem literalMode_of_winGet {s : State} {mb : Byte} (h : 7 ≤ s.lzmaState.val)
    (hmb : winGet s.rep0 s.out = some mb) : literalMode s = .matched mb := by
  rw [literalMode, if_pos h, hmb]

/-- From state 7 on a literal with no byte `rep0 + 1` back cannot be read (log entry 14). -/
theorem literalMode_of_winGet_none {s : State} (h : 7 ≤ s.lzmaState.val) (hmb : winGet s.rep0 s.out = none) :
    literalMode s = .unreadable := by
  rw [literalMode, if_pos h, hmb]

/-- Settles O59: the indices in exact arithmetic by `posState_val` and `litState_val`, the literal mode by what WinGet
answers; the checks are the context's own. -/
theorem contextOfASymbol : Obligations.ContextOfASymbol := by
  intro s
  refine ⟨rfl, posState_val s, fun hempty => ?empty, fun b hlast => ?last, literalMode_of_lt,
    fun h mb hlt hread => literalMode_of_winGet h (winGet_eq_some.mpr ⟨hlt, hread⟩),
    fun h hge => literalMode_of_winGet_none h (winGet_of_le hge), rfl, rfl, rfl, rfl, rfl⟩
  case empty =>
    refine (litState_val s).trans ?_
    simp [prevByte_of_empty hempty]
  case last =>
    refine (litState_val s).trans ?_
    rw [prevByte_of_last hlast]

end Sys2Proof.Machine

/-! ## The slots of a symbol (42_state_machine.md R198 to R201, 43_length_distance.md R230 to R244) -/

namespace Sys2Proof.Machine

/-! ### The adaptive decisions of a decoding -/

/-- The adaptive decisions of a decoding whose decisions come out as the given bits: the slots of `fetchSlots`, each with
its bit. -/
def slotDecisions {α : Type} : Fetch α → List Bool → List (Slot × Bool)
  | .ask (.adaptive slot) next, b :: bits => (slot, b) :: slotDecisions (next b) bits
  | .ask .direct next, b :: bits => slotDecisions (next b) bits
  | _, _ => []

@[simp] theorem slotDecisions_done {α : Type} (a : α) (bits : List Bool) : slotDecisions (.done a) bits = [] := by
  cases bits <;> rfl

@[simp] theorem slotDecisions_fail {α : Type} (k : FailKind) (bits : List Bool) :
    slotDecisions (.fail k : Fetch α) bits = [] := by
  cases bits <;> rfl

@[simp] theorem slotDecisions_adaptive {α : Type} (slot : Slot) (next : Bool → Fetch α) (b : Bool) (bits : List Bool) :
    slotDecisions (.ask (.adaptive slot) next) (b :: bits) = (slot, b) :: slotDecisions (next b) bits := rfl

@[simp] theorem slotDecisions_direct {α : Type} (next : Bool → Fetch α) (b : Bool) (bits : List Bool) :
    slotDecisions (.ask .direct next) (b :: bits) = slotDecisions (next b) bits := rfl

@[simp] theorem slotDecisions_decide1 {α : Type} (slot : Slot) (zero one : Fetch α) (b : Bool) (bits : List Bool) :
    slotDecisions (decide1 slot zero one) (b :: bits) = (slot, b) :: slotDecisions (if b then one else zero) bits := rfl

theorem slotDecisions_map_fst {α : Type} (p : Fetch α) (bits : List Bool) :
    (slotDecisions p bits).map Prod.fst = fetchSlots p bits := by
  induction p generalizing bits with
  | done a => simp
  | fail k => simp
  | ask d next ih =>
    cases bits with
    | nil => cases d <;> rfl
    | cons b bits => cases d <;> simp [ih]

/-- A decoding that reads its part `p` takes the decisions of `p`, then those of what follows. -/
theorem slotDecisions_bind {α β : Type} {p : Fetch α} {f : α → Fetch β} {bits rest : List Bool} {a : α}
    (h : p.read bits = .ok (a, rest)) :
    slotDecisions (p.bind f) bits = slotDecisions p bits ++ slotDecisions (f a) rest := by
  induction p generalizing bits with
  | done x =>
    simp only [Fetch.read, Except.ok.injEq, Prod.mk.injEq] at h
    obtain ⟨rfl, rfl⟩ := h
    simp [Fetch.bind]
  | fail k => simp [Fetch.read] at h
  | ask d next ih =>
    cases bits with
    | nil => simp [Fetch.read] at h
    | cons b bits =>
      have := ih b h
      cases d <;> simp [Fetch.bind, this]

@[simp] theorem slotDecisions_map {α β : Type} (f : α → β) (p : Fetch α) (bits : List Bool) :
    slotDecisions (p.map f) bits = slotDecisions p bits := by
  unfold Fetch.map
  induction p generalizing bits with
  | done a => simp [Fetch.bind]
  | fail k => simp [Fetch.bind]
  | ask d next ih =>
    cases bits with
    | nil => cases d <;> rfl
    | cons b bits => cases d <;> simp [Fetch.bind, ih b bits]

/-! ### Walks through a forward tree -/

/-- A list over the positions of `n` bits from the first on is one over the bits' weights from the highest down. -/
theorem map_range_eq_map_reverse {β : Type} {n : Nat} {f g : Nat → β} (h : ∀ k < n, f k = g (n - 1 - k)) :
    (List.range n).map f = (List.range n).reverse.map g := by
  rw [List.range_eq_range', List.reverse_range', ← List.range_eq_range', List.map_map]
  refine List.map_congr_left fun k hk => ?_
  rw [h k (List.mem_range.mp hk), Function.comp_apply, Nat.zero_add]

/-- A 1 above `n` bits, without its low `i` bits. -/
theorem two_pow_add_div {n i : Nat} (v : Nat) (hi : i ≤ n) : (2 ^ n + v) / 2 ^ i = 2 ^ (n - i) + v / 2 ^ i := by
  rw [← pow_sub_mul_pow 2 hi, Nat.add_comm, Nat.add_mul_div_right _ _ (by positivity), Nat.add_comm]

/-- The walk of a forward tree shifts in the bits of `v` below a 1. -/
theorem forwardWalk_eq (n v : Nat) :
    forwardWalk n v = (List.range n).reverse.map fun j => ((2 ^ n + v) / 2 ^ (j + 1), (2 ^ n + v).testBit j) := by
  refine map_range_eq_map_reverse fun k hk => ?_
  rw [two_pow_add_div v (by omega), Nat.testBit_two_pow_add_gt (by omega), show n - 1 - k + 1 = n - k by omega,
    Nat.sub_sub_self hk.le]

/-- A walk one decision further has shifted in one bit more. -/
theorem shift_add_testBit (x n : Nat) : ((x / 2 ^ (n + 1)) <<< 1) + (x.testBit n).toNat = x / 2 ^ n := by
  rw [Nat.toNat_testBit, Nat.shiftLeft_eq, pow_succ, ← Nat.div_div_eq_div_mul]
  omega

theorem slotDecisions_bitTreeFrom (P : Nat → Slot) (n x : Nat) (rest : List Bool) :
    slotDecisions (bitTreeFrom P n (x / 2 ^ n)) (bitsMsb n x ++ rest) =
      (List.range n).reverse.map fun j => (P (x / 2 ^ (j + 1)), x.testBit j) := by
  induction n with
  | zero => simp [bitTreeFrom]
  | succ n ih =>
    rw [bitTreeFrom, bitsMsb, List.cons_append, slotDecisions_adaptive, shift_add_testBit, ih, List.range_succ,
      List.reverse_append]
    rfl

/-- A forward tree that reads `v` walks `forwardWalk` (41_bit_tree.md R170). -/
theorem slotDecisions_bitTree {P : Nat → Slot} {n off v : Nat} (rest : List Bool) (hv : v < 2 ^ n) :
    slotDecisions (bitTree P n off) (bitsMsb n v ++ rest) = walkSlots (fun m => P (off + m)) (forwardWalk n v) := by
  have hroot : (2 ^ n + v) / 2 ^ n = 1 := by rw [two_pow_add_div v le_rfl, Nat.div_eq_of_lt hv, Nat.sub_self, pow_zero]
  have hbits : bitsMsb n v = bitsMsb n (2 ^ n + v) :=
    bitsMsb_congr fun i hi => (Nat.testBit_two_pow_add_gt hi v).symm
  rw [bitTree, slotDecisions_map, hbits]
  conv_lhs => rw [← hroot]
  rw [slotDecisions_bitTreeFrom, walkSlots, forwardWalk_eq, List.map_map]
  rfl

/-! ### Walks through a reverse tree -/

theorem reverseLow_add_div (k d v : Nat) : reverseLow (k + d) v / 2 ^ d = reverseLow k v := by
  induction d with
  | zero => rw [pow_zero, Nat.div_one, Nat.add_zero]
  | succ d ih =>
    have hhalf : reverseLow (k + (d + 1)) v / 2 = reverseLow (k + d) v := by
      have := Bool.toNat_le (v.testBit (k + d))
      rw [← Nat.add_assoc, reverseLow]
      omega
    rw [pow_succ', ← Nat.div_div_eq_div_mul, hhalf, ih]

/-- The walk of a reverse tree is the forward walk of the bits reversed (41_bit_tree.md R173). -/
theorem reverseWalk_eq (n v : Nat) : reverseWalk n v = forwardWalk n (reverseLow n v) := by
  refine List.map_congr_left fun k hk => ?_
  have hk := List.mem_range.mp hk
  have hlow := reverseLow_add_div k (n - k) v
  rw [Nat.add_sub_cancel' hk.le] at hlow
  rw [hlow, reverseLow_testBit v (by omega), show n - 1 - (n - 1 - k) = k by omega]

/-- The low bits from bit 0 on are those of the bits reversed, the most significant first (20_memory.md R79). -/
theorem bitsLsb_eq (n v : Nat) : bitsLsb n v = bitsMsb n (reverseLow n v) := by
  induction n generalizing v with
  | zero => rfl
  | succ n ih =>
    rw [bitsLsb, bitsMsb, ih, reverseLow_testBit v (Nat.lt_succ_self n), Nat.succ_sub_one, Nat.sub_self]
    refine congrArg _ (bitsMsb_congr fun i hi => ?_)
    rw [reverseLow_testBit _ hi, reverseLow_testBit _ (by omega), Nat.testBit_shiftRight]
    congr 1
    omega

/-- A reverse tree that reads the low bits of `v` walks `reverseWalk` (41_bit_tree.md R171). -/
theorem slotDecisions_bitTreeRev (P : Nat → Slot) (n off v : Nat) (rest : List Bool) :
    slotDecisions (bitTreeRev P n off) (bitsLsb n v ++ rest) = walkSlots (fun m => P (off + m)) (reverseWalk n v) := by
  rw [bitTreeRev_eq_map, slotDecisions_map, bitsLsb_eq, slotDecisions_bitTree _ (reverseLow_lt n v), reverseWalk_eq]

/-! ### The slots of the operand fields -/

theorem shift_or_bit_eq_add (m : Nat) (b : Bool) : (m <<< 1) ||| b.toNat = (m <<< 1) + b.toNat := by
  rw [shift_or_bit, Nat.shiftLeft_eq, pow_one, Nat.mul_comm]

/-- A plain literal walks a forward tree (42_state_machine.md R200). -/
theorem literalPlainFrom_eq (P : Nat → Slot) (n sym : Nat) : literalPlainFrom P n sym = bitTreeFrom P n sym := by
  induction n generalizing sym with
  | zero => rfl
  | succ n ih =>
    refine congrArg (Fetch.ask _) (funext fun b => ?_)
    rw [ih, shift_or_bit_eq_add]

/-- The index a matched literal asks for before bit `j` of `x`, against `m`: offset while the bits above agree
(42_state_machine.md R201). -/
def matchedIndex (x m j : Nat) : Nat :=
  x / 2 ^ (j + 1) + if x / 2 ^ (j + 1) = m / 2 ^ (j + 1) then 0x100 + 0x100 * (m.testBit j).toNat else 0

/-- Bit `n` of the match byte stands in bit 7 after `7 - n` shifts (42_state_machine.md R201). -/
theorem matchBit_eq {m n : Nat} (hn : n ≤ 7) : ((m * 2 ^ (7 - n) % 256) >>> 7) &&& 1 = (m.testBit n).toNat := by
  have hbit : (m * 2 ^ (7 - n) % 256).testBit 7 = m.testBit n := by
    rw [show 256 = 2 ^ 8 from rfl, Nat.testBit_mod_two_pow, ← Nat.shiftLeft_eq, Nat.testBit_shiftLeft]
    simp [Nat.sub_sub_self hn]
  rw [← hbit, Nat.and_one_is_mod, Nat.shiftRight_eq_div_pow, Nat.toNat_testBit]

/-- The match byte goes on one bit at a time (42_state_machine.md R201). -/
theorem matchByte_shift {m n : Nat} (hn : n ≤ 7) :
    (m * 2 ^ (7 - n) % 256) <<< 1 &&& 0xFF = m * 2 ^ (8 - n) % 256 := by
  rw [show 0xFF = 2 ^ 8 - 1 from rfl, Nat.and_two_pow_sub_one_eq_mod, Nat.shiftLeft_eq,
    show 8 - n = 7 - n + 1 by omega, pow_succ 2 (7 - n), ← Nat.mul_assoc]
  omega

/-- After the first difference no bits above agree, so every index is the plain one. -/
theorem matchedIndex_of_ne {x m n j : Nat} (hne : x / 2 ^ n ≠ m / 2 ^ n) (hj : j < n) :
    matchedIndex x m j = x / 2 ^ (j + 1) := by
  have hsplit : 2 ^ n = 2 ^ (j + 1) * 2 ^ (n - (j + 1)) := (pow_mul_pow_sub 2 hj).symm
  have : x / 2 ^ (j + 1) ≠ m / 2 ^ (j + 1) := fun heq => hne (by
    rw [hsplit, ← Nat.div_div_eq_div_mul, heq, Nat.div_div_eq_div_mul])
  rw [matchedIndex, if_neg this, Nat.add_zero]

/-- A matched literal whose bits agree so far with the match byte's (42_state_machine.md R201). -/
theorem slotDecisions_literalMatchedFrom (P : Nat → Slot) {n x m : Nat} (rest : List Bool) (hn : n ≤ 8)
    (hagree : x / 2 ^ n = m / 2 ^ n) :
    slotDecisions (literalMatchedFrom P n (x / 2 ^ n) (m * 2 ^ (8 - n) % 256)) (bitsMsb n x ++ rest) =
      (List.range n).reverse.map fun j => (P (matchedIndex x m j), x.testBit j) := by
  induction n with
  | zero => simp [literalMatchedFrom]
  | succ n ih =>
    have hx := shift_add_testBit x n
    have hm := shift_add_testBit m n
    have hindex : 0x100 + ((m.testBit n).toNat <<< 8) + x / 2 ^ (n + 1) = matchedIndex x m n := by
      rw [matchedIndex, if_pos hagree, Nat.shiftLeft_eq]
      omega
    rw [literalMatchedFrom, bitsMsb, List.cons_append, slotDecisions_adaptive, show 8 - (n + 1) = 7 - n by omega,
      matchBit_eq (by omega), matchByte_shift (by omega), hindex, shift_or_bit_eq_add, hx,
      List.range_succ, List.reverse_append]
    refine congrArg (_ :: ·) ?_
    split
    next heq => exact ih (by omega) (by omega)
    next hne =>
      rw [literalPlainFrom_eq, slotDecisions_bitTreeFrom]
      refine List.map_congr_left fun j hj => ?_
      rw [matchedIndex_of_ne (by omega) (List.mem_range.mp (List.mem_reverse.mp hj))]

theorem matchedWalk_eq (m b : Nat) :
    matchedWalk m b =
      (List.range 8).reverse.map fun j => (matchedIndex (2 ^ 8 + b) (2 ^ 8 + m) j, (2 ^ 8 + b).testBit j) := by
  refine map_range_eq_map_reverse fun k hk => ?_
  rw [matchedIndex, two_pow_add_div b (by omega), two_pow_add_div m (by omega), Nat.testBit_two_pow_add_gt (by omega),
    Nat.testBit_two_pow_add_gt (by omega), show 8 - 1 - k + 1 = 8 - k by omega, Nat.sub_sub_self hk.le]
  simp

/-- A literal takes the decisions of its table, none where there is no byte to match (42_state_machine.md R200 to
R202). -/
theorem slotDecisions_literalField (c : Context) (b : Byte) (rest : List Bool) :
    slotDecisions (literalField c.litState c.literalMode) (bitsMsb 8 b.toNat ++ rest) = literalSlots c b := by
  rw [literalSlots]
  cases c.literalMode with
  | plain =>
    have htree := slotDecisions_bitTree (P := literalSlot c.litState) (off := 0) rest b.isLt
    simpa [literalField, literalPlainFrom_eq, bitTree] using htree
  | matched mb =>
    have hroot (v : Byte) : (2 ^ 8 + v.toNat) / 2 ^ 8 = 1 := by have := v.isLt; omega
    have hbits : bitsMsb 8 b.toNat = bitsMsb 8 (2 ^ 8 + b.toNat) :=
      bitsMsb_congr fun i hi => (Nat.testBit_two_pow_add_gt hi _).symm
    have hmatch : (2 ^ 8 + mb.toNat) * 2 ^ (8 - 8) % 256 = mb.toNat := by have := mb.isLt; omega
    have hwalk := slotDecisions_literalMatchedFrom (literalSlot c.litState) rest le_rfl
      ((hroot b).trans (hroot mb).symm)
    rw [hroot, hmatch, ← hbits] at hwalk
    show _ = walkSlots (literalSlot c.litState) (matchedWalk mb.toNat b.toNat)
    rw [literalField, slotDecisions_map, hwalk, walkSlots, matchedWalk_eq, List.map_map]
    rfl
  | unreadable => exact slotDecisions_fail _ _

/-- A length takes the decisions of its table (43_length_distance.md R230). -/
theorem slotDecisions_lenField {l : LenSet} {ps : Fin 16} {len : Nat} (rest : List Bool) (h : lenOk len = true) :
    slotDecisions (lenField l ps) (encodeLen len ++ rest) = lenSlots l ps len := by
  obtain ⟨hlow, hhigh⟩ : 2 ≤ len ∧ len ≤ 273 := of_decide_eq_true h
  unfold encodeLen lenSlots
  split
  next h10 => simp [lenField, slotDecisions_bitTree rest (show len - 2 < 2 ^ 3 by omega)]
  next h10 =>
  split
  next h18 => simp [lenField, slotDecisions_bitTree rest (show len - 10 < 2 ^ 3 by omega)]
  next h18 => simp [lenField, slotDecisions_bitTree rest (show len - 18 < 2 ^ 8 by omega)]

/-- Direct bits have no slot (40_range_decoder.md R145). -/
theorem slotDecisions_directBits_bind {β : Type} (n v : Nat) (f : Nat → Fetch β) (rest : List Bool) :
    ∃ w, slotDecisions ((directBits n).bind f) (bitsMsb n v ++ rest) = slotDecisions (f w) rest := by
  suffices hfrom : ∀ res, ∃ w,
      slotDecisions ((directBitsFrom n res).bind f) (bitsMsb n v ++ rest) = slotDecisions (f w) rest from hfrom 0
  induction n with
  | zero => exact fun res => ⟨res, rfl⟩
  | succ n ih => exact fun res => ih _

/-- What follows a distance slot takes the decisions of its table (43_length_distance.md R243, R244). -/
theorem slotDecisions_distTail (d : Nat) (rest : List Bool) :
    slotDecisions (distTail (distSlot d)) (encodeDistTail (distSlot d) (d - slotBase (distSlot d)) ++ rest) =
      if distSlot d < 4 then []
      else if distSlot d < 14 then
        walkSlots (fun m => .specPos (Fin.ofNat 115 (slotBase (distSlot d) - distSlot d + m)))
          (reverseWalk (slotNd (distSlot d)) (d - slotBase (distSlot d)))
      else walkSlots (fun m => .align (Fin.ofNat 16 m)) (reverseWalk 4 (d % 16)) := by
  unfold distTail encodeDistTail
  split
  next h4 => simp
  next h4 =>
  split
  next h14 => rw [slotDecisions_map, slotDecisions_bitTreeRev]
  next h14 =>
    have hbase : (d - slotBase (distSlot d)) % 16 = d % 16 := by
      have h4d : 4 ≤ d := by
        by_contra hd
        exact h4 (by rw [distSlot, if_pos (by omega)]; omega)
      have hnd : 4 ≤ slotNd (distSlot d) := by rw [slotNd_eq]; simp only [Config.endPosModelIndex] at h14; omega
      obtain ⟨-, r, -, hsum⟩ := eq_slotBase_distSlot_add h4d
      have hmul : slotBase (distSlot d) = 16 * ((2 + distSlot d % 2) * 2 ^ (slotNd (distSlot d) - 4)) := by
        rw [slotBase_eq, ← pow_mul_pow_sub 2 hnd]
        ring
      omega
    obtain ⟨w, hw⟩ := slotDecisions_directBits_bind (slotNd (distSlot d) - 4) ((d - slotBase (distSlot d)) >>> 4)
      (fun dir => (bitTreeRev (fun m => .align (Fin.ofNat 16 m)) 4).map fun low =>
        slotBase (distSlot d) + (dir <<< 4) + low) (bitsLsb 4 ((d - slotBase (distSlot d)) % 16) ++ rest)
    rw [List.append_assoc, hw, slotDecisions_map, slotDecisions_bitTreeRev, hbase]
    simp

/-- A distance takes the decisions of its table (43_length_distance.md R240, R243, R244). -/
theorem slotDecisions_distField (len : Nat) (d : U32) (rest : List Bool) :
    slotDecisions (distField len) (encodeDist d ++ rest) = distSlots len d.toNat := by
  have hslot := distSlot_lt d.isLt
  rw [distField, slotDecisions_map, encodeDist, List.append_assoc,
    slotDecisions_bind (bitTree_read.mpr ⟨hslot, rfl⟩), slotDecisions_bitTree _ hslot, slotDecisions_distTail]
  simp only [Nat.zero_add]
  rfl

/-! ### The slots of a symbol -/

/-- `taken` is `all`, or a beginning of it where the check fails. -/
def CutShort (check : Option FailKind) (taken all : List (Slot × Bool)) : Prop :=
  taken <+: all ∧ (check = none → taken = all)

theorem CutShort.of_eq {check : Option FailKind} {taken all : List (Slot × Bool)} (h : taken = all) :
    CutShort check taken all :=
  ⟨h ▸ List.prefix_rfl, fun _ => h⟩

theorem CutShort.cons {check : Option FailKind} {taken all : List (Slot × Bool)} (h : CutShort check taken all)
    (e : Slot × Bool) : CutShort check (e :: taken) (e :: all) :=
  ⟨(List.prefix_cons_inj e).mpr h.1, fun hc => congrArg (e :: ·) (h.2 hc)⟩

/-- A check that fails leaves no decision; one that passes leaves the others to theirs (60_exceptions.md R350). -/
theorem CutShort.guarded {α : Type} {check check' : Option FailKind} {p : Fetch α} {bits : List Bool}
    {all : List (Slot × Bool)} (h : CutShort check' (slotDecisions p bits) all) :
    CutShort (check.or check') (slotDecisions (p.guarded check) bits) all := by
  cases check with
  | none => exact h
  | some k => exact ⟨by simp [Fetch.guarded], by simp⟩

/-- What a check guards is cut short by that check alone. -/
theorem CutShort.guarded_of_eq {α : Type} {check : Option FailKind} {p : Fetch α} {bits : List Bool}
    {all : List (Slot × Bool)} (h : slotDecisions p bits = all) :
    CutShort check (slotDecisions (p.guarded check) bits) all := by
  have hnone : CutShort (check.or none) _ all := CutShort.guarded (CutShort.of_eq h)
  rwa [Option.or_none] at hnone

/-- MATCH and EOS take the decisions of their length, then of their distance (45_decode_loop.md R283, R284). -/
theorem slotDecisions_matchField {ps : Fin 16} {len : Nat} (d : U32) (rest : List Bool) (hlen : lenOk len = true) :
    slotDecisions (matchField ps) (encodeLen len ++ encodeDist d ++ rest) =
      lenSlots .lenDec ps len ++ distSlots len d.toNat := by
  rw [List.append_assoc, matchField, slotDecisions_bind (lenField_read_encodeLen hlen), slotDecisions_lenField _ hlen,
    slotDecisions_map, slotDecisions_distField]

/-- A LONGREP takes the decisions of its length, once its rep passes CheckDist (45_decode_loop.md R289). -/
theorem slotDecisions_longRepField {ps : Fin 16} {len : Nat} (check : Option FailKind) (mk : Nat → Symbol)
    (rest : List Bool) (hlen : lenOk len = true) :
    CutShort check (slotDecisions (longRepField ps check mk) (encodeLen len ++ rest)) (lenSlots .repLenDec ps len) :=
  CutShort.guarded_of_eq ((slotDecisions_map mk _ _).trans (slotDecisions_lenField rest hlen))

/-- In every context the decisions of a well-formed symbol are those of the tables, cut short by the one check that the
context makes of it (42_state_machine.md R198, 45_decode_loop.md R289, R290). -/
theorem slotDecisions_symbolFetch (c : Context) {y : Symbol} (rest : List Bool) (hy : y.wf = true) :
    CutShort (contextCheck c y) (slotDecisions (symbolFetch c) (encodeSymbol y ++ rest)) (symbolSlots c y) := by
  cases y with
  | lit b =>
    refine CutShort.cons (CutShort.of_eq ?_) _
    exact (slotDecisions_map _ _ _).trans (slotDecisions_literalField c b rest)
  | newMatch len dist =>
    obtain ⟨hlen, -⟩ : lenOk len = true ∧ dist ≠ Config.eosDist := by
      simpa [Symbol.wf, Symbol.toInstr, Instr.wf] using hy
    exact ((CutShort.of_eq (slotDecisions_matchField dist rest hlen)).cons _).cons _
  | eos len => exact ((CutShort.of_eq (slotDecisions_matchField Config.eosDist rest hy)).cons _).cons _
  | shortRep =>
    exact ((CutShort.guarded_of_eq (p := decide1 (.isRepG0 c.s) (decide1 (.isRep0Long c.s c.ps) _ _) _)
      (bits := false :: false :: rest) (by simp)).cons _).cons _
  | longRep0 len =>
    exact ((CutShort.guarded (((slotDecisions_longRepField c.rep0 .longRep0 rest hy).cons _).cons _)).cons _).cons _
  | longRep1 len =>
    exact ((CutShort.guarded (((slotDecisions_longRepField c.rep1 .longRep1 rest hy).cons _).cons _)).cons _).cons _
  | longRep2 len =>
    exact ((CutShort.guarded
      ((((slotDecisions_longRepField c.rep2 .longRep2 rest hy).cons _).cons _).cons _)).cons _).cons _
  | longRep3 len =>
    exact ((CutShort.guarded
      ((((slotDecisions_longRepField c.rep3 .longRep3 rest hy).cons _).cons _).cons _)).cons _).cons _

/-! ### The slots of a symbol are distinct -/

/-- `P` gives the indices below `n` slots of their own. -/
def Distinct (P : Nat → Slot) (n : Nat) : Prop := ∀ a < n, ∀ b < n, P a = P b → a = b

theorem distinct_of_ofNat {P : Nat → Slot} {n : Nat} [NeZero n]
    (h : ∀ a b, P a = P b → Fin.ofNat n a = Fin.ofNat n b) : Distinct P n := by
  intro a ha b hb hab
  have hval := congrArg Fin.val (h a b hab)
  rwa [Fin.val_ofNat, Fin.val_ofNat, Nat.mod_eq_of_lt ha, Nat.mod_eq_of_lt hb] at hval

/-- A walk to indices of their own below `n` takes slots of their own. -/
theorem walkSlots_nodup {P : Nat → Slot} {n : Nat} {walk : List (Nat × Bool)} (hP : Distinct P n)
    (hlt : ∀ e ∈ walk, e.1 < n) (hwalk : (walk.map Prod.fst).Nodup) : ((walkSlots P walk).map Prod.fst).Nodup := by
  have hmap : (walkSlots P walk).map Prod.fst = (walk.map Prod.fst).map P := by simp
  rw [hmap]
  refine hwalk.map_on fun a ha b hb => ?_
  obtain ⟨e, he, rfl⟩ := List.mem_map.mp ha
  obtain ⟨e', he', rfl⟩ := List.mem_map.mp hb
  exact hP _ (hlt e he) _ (hlt e' he')

/-- After `k` decisions a walk stands among the `2^k` nodes of its depth (41_bit_tree.md R170). -/
theorem walkIndex_lt {n v k : Nat} (hv : v < 2 ^ n) (hk : k < n) : 2 ^ k + v / 2 ^ (n - k) < 2 ^ (k + 1) := by
  have hlow : v / 2 ^ (n - k) < 2 ^ k := Nat.div_lt_of_lt_mul (by rwa [pow_sub_mul_pow 2 hk.le])
  rw [pow_succ]
  omega

/-- So no walk of `n` decisions leaves its tree (41_bit_tree.md R170). -/
theorem walkIndex_lt_two_pow {n v k : Nat} (hv : v < 2 ^ n) (hk : k < n) : 2 ^ k + v / 2 ^ (n - k) < 2 ^ n :=
  (walkIndex_lt hv hk).trans_le (Nat.pow_le_pow_right (by decide) hk)

/-- The same for every index of a walk. -/
theorem forwardWalk_lt {n v : Nat} (hv : v < 2 ^ n) : ∀ e ∈ forwardWalk n v, e.1 < 2 ^ n := by
  intro e he
  obtain ⟨k, hk, rfl⟩ := List.mem_map.mp he
  exact walkIndex_lt_two_pow hv (List.mem_range.mp hk)

/-- A walk goes down the tree, so no index comes twice (41_bit_tree.md R170). -/
theorem forwardWalk_nodup {n v : Nat} (hv : v < 2 ^ n) : ((forwardWalk n v).map Prod.fst).Nodup := by
  rw [forwardWalk, List.map_map]
  refine List.pairwise_map.mpr (List.pairwise_lt_range.imp_of_mem fun {k k'} hk _ hlt => Nat.ne_of_lt ?_)
  calc 2 ^ k + v / 2 ^ (n - k) < 2 ^ (k + 1) := walkIndex_lt hv (List.mem_range.mp hk)
    _ ≤ 2 ^ k' := Nat.pow_le_pow_right (by decide) hlt
    _ ≤ _ := Nat.le_add_right _ _

/-- A literal coder has 768 slots (10_state.md R51). -/
theorem matchedWalk_lt {m b : Nat} (hb : b < 2 ^ 8) : ∀ e ∈ matchedWalk m b, e.1 < 768 := by
  intro e he
  obtain ⟨k, hk, rfl⟩ := List.mem_map.mp he
  have hplain := walkIndex_lt_two_pow hb (List.mem_range.mp hk)
  have hbit := Bool.toNat_le (m.testBit (7 - k))
  dsimp only
  split <;> omega

/-- The offsets of a matched literal keep the depths apart (42_state_machine.md R201). -/
theorem matchedWalk_nodup {m b : Nat} (hb : b < 2 ^ 8) : ((matchedWalk m b).map Prod.fst).Nodup := by
  have hmod : ((matchedWalk m b).map Prod.fst).map (· % 256) = (forwardWalk 8 b).map Prod.fst := by
    simp only [matchedWalk, forwardWalk, List.map_map]
    refine List.map_congr_left fun k hk => ?_
    have hplain := walkIndex_lt_two_pow hb (List.mem_range.mp hk)
    simp only [Function.comp_apply]
    generalize 2 ^ k + b / 2 ^ (8 - k) = i at hplain ⊢
    split <;> omega
  exact (hmod ▸ forwardWalk_nodup hb).of_map _

theorem walkSlots_forwardWalk_nodup {P : Nat → Slot} {n v : Nat} (hP : Distinct P (2 ^ n)) (hv : v < 2 ^ n) :
    ((walkSlots P (forwardWalk n v)).map Prod.fst).Nodup :=
  walkSlots_nodup hP (forwardWalk_lt hv) (forwardWalk_nodup hv)

theorem walkSlots_reverseWalk_nodup {P : Nat → Slot} {n v : Nat} (hP : Distinct P (2 ^ n)) :
    ((walkSlots P (reverseWalk n v)).map Prod.fst).Nodup := by
  rw [reverseWalk_eq]
  exact walkSlots_forwardWalk_nodup hP (reverseLow_lt n v)

theorem Distinct.mono {P : Nat → Slot} {n m : Nat} (h : Distinct P m) (hle : n ≤ m) : Distinct P n :=
  fun a ha b hb => h a (ha.trans_le hle) b (hb.trans_le hle)

/-- The slots of a walk have what all slots of its tree have. -/
theorem walkSlots_forall {P : Nat → Slot} {Q : Slot → Prop} (hP : ∀ m, Q (P m)) {walk : List (Nat × Bool)}
    {slot : Slot} (h : slot ∈ (walkSlots P walk).map Prod.fst) : Q slot := by
  rw [walkSlots_map_fst] at h
  obtain ⟨e, -, rfl⟩ := List.mem_map.mp h
  exact hP e.1

theorem literalSlots_nodup (c : Context) (b : Byte) : ((literalSlots c b).map Prod.fst).Nodup := by
  have hP : Distinct (literalSlot c.litState) 768 := distinct_of_ofNat fun _ _ h => by injection h
  rw [literalSlots]
  split
  · exact walkSlots_forwardWalk_nodup (hP.mono (by decide)) b.isLt
  · exact walkSlots_nodup hP (matchedWalk_lt b.isLt) (matchedWalk_nodup b.isLt)
  · exact List.nodup_nil

theorem lenSlots_nodup {l : LenSet} {ps : Fin 16} {len : Nat} (h : lenOk len = true) :
    ((lenSlots l ps len).map Prod.fst).Nodup := by
  obtain ⟨hlow, hhigh⟩ : 2 ≤ len ∧ len ≤ 273 := of_decide_eq_true h
  have hl : Distinct (fun m => .low l ps (Fin.ofNat 8 m)) 8 := distinct_of_ofNat fun _ _ h => by injection h
  have hm : Distinct (fun m => .mid l ps (Fin.ofNat 8 m)) 8 := distinct_of_ofNat fun _ _ h => by injection h
  have hh : Distinct (fun m => .high l (Fin.ofNat 256 m)) 256 := distinct_of_ofNat fun _ _ h => by injection h
  rw [lenSlots]
  split
  next h10 =>
    have := walkSlots_forwardWalk_nodup (n := 3) hl (show len - 2 < 2 ^ 3 by omega)
    simpa using this
  next h10 =>
  split
  next h18 =>
    have := walkSlots_forwardWalk_nodup (n := 3) hm (show len - 10 < 2 ^ 3 by omega)
    simpa using this
  next h18 =>
    have := walkSlots_forwardWalk_nodup (n := 8) hh (show len - 18 < 2 ^ 8 by omega)
    simpa using this

/-- The trees of slots 4..13 stand within the 115 slots of `specPos` (43_length_distance.md R243). -/
theorem specPos_offset_le : ∀ slot < 14, 4 ≤ slot → slotBase slot - slot + 2 ^ slotNd slot ≤ 115 := by decide

theorem specPos_distinct {slot : Nat} (h4 : 4 ≤ slot) (h14 : slot < 14) :
    Distinct (fun m => .specPos (Fin.ofNat 115 (slotBase slot - slot + m))) (2 ^ slotNd slot) := by
  intro a ha b hb hab
  have hle := specPos_offset_le slot h14 h4
  have hP : Distinct (fun m => .specPos (Fin.ofNat 115 m)) 115 := distinct_of_ofNat fun _ _ h => by injection h
  exact Nat.add_left_cancel (hP _ (by omega) _ (by omega) hab)

theorem distSlots_nodup {len d : Nat} (hd : d < 2 ^ 32) : ((distSlots len d).map Prod.fst).Nodup := by
  have hp : Distinct (fun m => .posSlot (Fin.ofNat 4 (min (len - 2) 3)) (Fin.ofNat 64 m)) 64 :=
    distinct_of_ofNat fun _ _ h => by injection h
  have ha : Distinct (fun m => .align (Fin.ofNat 16 m)) 16 := distinct_of_ofNat fun _ _ h => by injection h
  have hslot := walkSlots_forwardWalk_nodup (n := 6) hp (distSlot_lt hd)
  rw [distSlots, List.map_append]
  split
  next h4 => simpa using hslot
  next h4 =>
  split
  next h14 =>
    refine hslot.append (walkSlots_reverseWalk_nodup (specPos_distinct (by omega) h14)) fun slot hpos htail => ?_
    have hpos : slotArray slot = 6 := walkSlots_forall (Q := (slotArray · = 6)) (fun _ => rfl) hpos
    have htail : slotArray slot = 7 := walkSlots_forall (Q := (slotArray · = 7)) (fun _ => rfl) htail
    omega
  next h14 =>
    refine hslot.append (walkSlots_reverseWalk_nodup ha) fun slot hpos htail => ?_
    have hpos : slotArray slot = 6 := walkSlots_forall (Q := (slotArray · = 6)) (fun _ => rfl) hpos
    have htail : slotArray slot = 8 := walkSlots_forall (Q := (slotArray · = 8)) (fun _ => rfl) htail
    omega

/-- The slots of a length stand behind all arrays but the literals' (10_state.md R55, R56). -/
theorem slotArray_of_mem_lenSlots {l : LenSet} {ps : Fin 16} {len : Nat} {slot : Slot}
    (h : slot ∈ (lenSlots l ps len).map Prod.fst) : 9 ≤ slotArray slot := by
  have hchoice : 9 ≤ slotArray (.choice l) := by cases l <;> decide
  have hchoice2 : 9 ≤ slotArray (.choice2 l) := by cases l <;> decide
  have hlow (m : Fin 8) : 9 ≤ slotArray (.low l ps m) := by cases l <;> simp [slotArray]
  have hmid (m : Fin 8) : 9 ≤ slotArray (.mid l ps m) := by cases l <;> simp [slotArray]
  have hhigh (m : Fin 256) : 9 ≤ slotArray (.high l m) := by cases l <;> simp [slotArray]
  rw [lenSlots] at h
  split at h
  next h10 =>
    rcases List.mem_cons.mp h with rfl | h
    · exact hchoice
    · exact walkSlots_forall (Q := (9 ≤ slotArray ·)) (fun _ => hlow _) h
  next h10 =>
  split at h
  next h18 =>
    rcases List.mem_cons.mp h with rfl | h
    · exact hchoice
    rcases List.mem_cons.mp h with rfl | h
    · exact hchoice2
    · exact walkSlots_forall (Q := (9 ≤ slotArray ·)) (fun _ => hmid _) h
  next h18 =>
    rcases List.mem_cons.mp h with rfl | h
    · exact hchoice
    rcases List.mem_cons.mp h with rfl | h
    · exact hchoice2
    · exact walkSlots_forall (Q := (9 ≤ slotArray ·)) (fun _ => hhigh _) h

/-- The slots of a distance stand in `posSlot`, `specPos` and `align` (10_state.md R52 to R54). -/
theorem slotArray_of_mem_distSlots {len d : Nat} {slot : Slot} (h : slot ∈ (distSlots len d).map Prod.fst) :
    6 ≤ slotArray slot ∧ slotArray slot ≤ 8 := by
  rw [distSlots, List.map_append] at h
  rcases List.mem_append.mp h with h | h
  · have hpos : slotArray slot = 6 := walkSlots_forall (Q := (slotArray · = 6)) (fun _ => rfl) h
    omega
  split at h
  next h4 => cases h
  next h4 =>
  split at h
  next h14 =>
    have hspec : slotArray slot = 7 := walkSlots_forall (Q := (slotArray · = 7)) (fun _ => rfl) h
    omega
  next h14 =>
    have halign : slotArray slot = 8 := walkSlots_forall (Q := (slotArray · = 8)) (fun _ => rfl) h
    omega

/-- The slots of a literal are those of the literal coders (10_state.md R51). -/
theorem slotArray_of_mem_literalSlots {c : Context} {b : Byte} {slot : Slot}
    (h : slot ∈ (literalSlots c b).map Prod.fst) : slotArray slot = 19 := by
  rw [literalSlots] at h
  split at h
  · exact walkSlots_forall (Q := (slotArray · = 19)) (fun _ => rfl) h
  · exact walkSlots_forall (Q := (slotArray · = 19)) (fun _ => rfl) h
  · cases h

/-- The slots that spell a symbol's kind and those of its operand fields are distinct, where each part's are. -/
theorem kind_append_fields_nodup {kind fields : List (Slot × Bool)} (hkind : (kind.map Prod.fst).Nodup)
    (hlow : ∀ slot ∈ kind.map Prod.fst, slotArray slot < 6) (hfields : (fields.map Prod.fst).Nodup)
    (hhigh : ∀ slot ∈ fields.map Prod.fst, 6 ≤ slotArray slot) : ((kind ++ fields).map Prod.fst).Nodup := by
  rw [List.map_append]
  exact hkind.append hfields fun slot h h' => absurd (hlow slot h) (Nat.not_lt.mpr (hhigh slot h'))

/-- The slots of a length and of the distance after it are distinct. -/
theorem lenSlots_append_distSlots_nodup {l : LenSet} {ps : Fin 16} {len d : Nat} (hlen : lenOk len = true)
    (hd : d < 2 ^ 32) : ((lenSlots l ps len ++ distSlots len d).map Prod.fst).Nodup := by
  rw [List.map_append]
  refine (lenSlots_nodup hlen).append (distSlots_nodup hd) fun slot hmem hmem' => ?_
  have hlow := slotArray_of_mem_lenSlots hmem
  have hhigh := slotArray_of_mem_distSlots hmem'
  omega

/-- No symbol uses a slot twice (42_state_machine.md R198). -/
theorem symbolSlots_nodup (c : Context) {y : Symbol} (hy : y.wf = true) : ((symbolSlots c y).map Prod.fst).Nodup := by
  have matchNodup {len d : Nat} (hlen : lenOk len = true) (hd : d < 2 ^ 32) :
      (([(Slot.isMatch c.s c.ps, true), (Slot.isRep c.s, false)] ++
        (lenSlots .lenDec c.ps len ++ distSlots len d)).map Prod.fst).Nodup := by
    refine kind_append_fields_nodup (by simp) (by simp [slotArray]) (lenSlots_append_distSlots_nodup hlen hd) ?_
    intro slot hmem
    rw [List.map_append] at hmem
    rcases List.mem_append.mp hmem with hmem | hmem
    · exact (Nat.le_add_left 6 3).trans (slotArray_of_mem_lenSlots hmem)
    · exact (slotArray_of_mem_distSlots hmem).1
  have repNodup {len : Nat} (kind : List (Slot × Bool)) (hkind : (kind.map Prod.fst).Nodup)
      (hlow : ∀ slot ∈ kind.map Prod.fst, slotArray slot < 6) (hlen : lenOk len = true) :
      ((kind ++ lenSlots .repLenDec c.ps len).map Prod.fst).Nodup :=
    kind_append_fields_nodup hkind hlow (lenSlots_nodup hlen)
      fun slot hmem => (Nat.le_add_left 6 3).trans (slotArray_of_mem_lenSlots hmem)
  cases y with
  | lit b =>
    exact kind_append_fields_nodup (kind := [(.isMatch c.s c.ps, false)]) (by simp) (by simp [slotArray])
      (literalSlots_nodup c b) fun slot hmem => by rw [slotArray_of_mem_literalSlots hmem]; decide
  | newMatch len dist =>
    obtain ⟨hlen, -⟩ : lenOk len = true ∧ dist ≠ Config.eosDist := by
      simpa [Symbol.wf, Symbol.toInstr, Instr.wf] using hy
    exact matchNodup hlen dist.isLt
  | eos len => exact matchNodup (d := 0xFFFFFFFF) hy (by decide)
  | shortRep => simp [symbolSlots]
  | longRep0 len => exact repNodup [_, _, _, _] (by simp) (by simp [slotArray]) hy
  | longRep1 len => exact repNodup [_, _, _, _] (by simp) (by simp [slotArray]) hy
  | longRep2 len => exact repNodup [_, _, _, _, _] (by simp) (by simp [slotArray]) hy
  | longRep3 len => exact repNodup [_, _, _, _, _] (by simp) (by simp [slotArray]) hy

/-! ### How the slots move -/

/-- A slot's value after a decision with the given bit (40_range_decoder.md R142). -/
def moved (b : Bool) (p : Prob) : Prob := if b then probDown p else probUp p

/-- The store after adaptive decisions, in their order. -/
def moveSlots : List (Slot × Bool) → ProbStore → ProbStore
  | [], st => st
  | (slot, b) :: taken, st => moveSlots taken (setProb slot (moved b (getProb slot st)) st)

/-- The store after one decision. -/
def moveDecision (d : Decision) (b : Bool) (st : ProbStore) : ProbStore :=
  match d with
  | .adaptive slot => setProb slot (moved b (getProb slot st)) st
  | .direct => st

/-- A decision that goes through moves its slot, if it has one, and no other (40_range_decoder.md R142, R145). -/
theorem takeDecision_probs {d : Decision} {s t : State} {b : Bool} (h : takeDecision d s = .ok b t) :
    t.probs = moveDecision d b s.probs := by
  have hprobs : t.probs = (decisionState d s).probs := by
    rcases takeDecision_cases d s with ⟨-, hd⟩ | ⟨-, byte, -, -, hd⟩ | ⟨-, -, hd⟩ <;> rw [hd] at h <;> cases h <;> rfl
  rw [hprobs, takeDecision_bit h]
  cases d with
  | adaptive slot =>
    by_cases hlt : s.code < boundOf slot s <;> simp [moveDecision, decisionState, decisionBit, hlt, moved, -BitVec.not_lt]
  | direct => exact takeDirect_probs s

/-- Where the range decoder reads a tree, the same decisions from a list read it, and the store has moved by those that
have a slot (40_range_decoder.md R142, R145). -/
theorem runFetch_moveSlots {α : Type} {p : Fetch α} {s t : State} {a : α} (h : runFetch p s = .ok a t) :
    ∃ bits, p.read bits = .ok (a, []) ∧ t.probs = moveSlots (slotDecisions p bits) s.probs := by
  induction p generalizing s with
  | done x =>
    simp only [runFetch, Res.ok.injEq] at h
    obtain ⟨rfl, rfl⟩ := h
    exact ⟨[], rfl, rfl⟩
  | fail k => simp [runFetch] at h
  | ask d next ih =>
    simp only [runFetch] at h
    cases hd : takeDecision d s with
    | ok b u =>
      rw [hd] at h
      obtain ⟨bits, hread, hprobs⟩ := ih b h
      rw [takeDecision_probs hd] at hprobs
      exact ⟨b :: bits, hread, by cases d <;> exact hprobs⟩
    | fail k u => rw [hd] at h; simp at h

/-- Decisions that do not take a slot leave it as it was (10_state.md R58). -/
theorem getProb_moveSlots_of_notMem {taken : List (Slot × Bool)} {st : ProbStore} (hst : probWf st = true)
    {slot : Slot} (h : slot ∉ taken.map Prod.fst) : getProb slot (moveSlots taken st) = getProb slot st := by
  induction taken generalizing st with
  | nil => rfl
  | cons e taken ih =>
    obtain ⟨hne, hmem⟩ := not_or.mp (mt List.mem_cons.mpr h)
    rw [moveSlots, ih (probWf_setProb _ _ hst) hmem, getProb_setProb_of_ne hst hne]

/-- A slot that decisions take once has moved by that decision (40_range_decoder.md R142). -/
theorem getProb_moveSlots_of_mem {taken : List (Slot × Bool)} {st : ProbStore} (hst : probWf st = true) {slot : Slot}
    {b : Bool} (hnodup : (taken.map Prod.fst).Nodup) (h : (slot, b) ∈ taken) :
    getProb slot (moveSlots taken st) = moved b (getProb slot st) := by
  induction taken generalizing st with
  | nil => cases h
  | cons e taken ih =>
    obtain ⟨hhead, htail⟩ := List.nodup_cons.mp hnodup
    rcases List.mem_cons.mp h with rfl | h
    · rw [moveSlots, getProb_moveSlots_of_notMem (probWf_setProb _ _ hst) hhead, getProb_setProb_same hst]
    · have hne : slot ≠ e.1 := fun heq => hhead (heq ▸ List.mem_map_of_mem h)
      rw [moveSlots, ih (probWf_setProb _ _ hst) htail h, getProb_setProb_of_ne hst hne]

/-- Decoding a symbol moves the slots of the tables, each of them once (42_state_machine.md R198). -/
theorem fetchSymbol_moveSlots {s t : State} {y : Symbol} (h : fetchSymbol s = .ok y t) :
    y.wf = true ∧ t.probs = moveSlots (symbolSlots (contextOf s) y) s.probs := by
  obtain ⟨bits, hread, hprobs⟩ := runFetch_moveSlots h
  obtain ⟨hwf, rfl⟩ := symbolFetch_read hread
  have hcheck := hread
  rw [symbolFetch_read_encodeSymbol _ _ hwf, Fetch.read_guarded_eq_ok] at hcheck
  rw [(slotDecisions_symbolFetch (contextOf s) [] hwf).2 hcheck.1] at hprobs
  exact ⟨hwf, hprobs⟩

/-- Settles O60: the decisions of a symbol are those of the tables by `slotDecisions_symbolFetch`; decoding moves the
store by them, and no slot stands among them twice. -/
theorem slotsOfASymbol : Obligations.SlotsOfASymbol := by
  refine ⟨fun c y rest hy => ?slots, fun s t y hwf h => ?moves, by decide⟩
  case slots =>
    obtain ⟨hbegin, hall⟩ := slotDecisions_symbolFetch c rest hy
    rw [← slotDecisions_map_fst]
    exact ⟨hbegin.map _, fun hc => congrArg _ (hall hc)⟩
  case moves =>
    obtain ⟨hy, hprobs⟩ := fetchSymbol_moveSlots h
    rw [hprobs]
    exact ⟨fun slot => getProb_moveSlots_of_notMem hwf,
      fun slot b => getProb_moveSlots_of_mem hwf (symbolSlots_nodup _ hy)⟩

end Sys2Proof.Machine

/-! ## The one encoding of a symbol (43_length_distance.md R245) -/

namespace Sys2Proof

/-- Settles O6: `decodeSymbol` is the grammar read in the plain context, and by `symbolFetch_read` the grammar reads
nothing but encodings of well-formed symbols; `Spells` is that statement. -/
theorem encodingIsUnique : Obligations.EncodingIsUnique :=
  fun _bits _rest _y hread => symbolFetch_read (c := Context.plain) hread

end Sys2Proof

/-! ## The output window (44_output_window.md R264, R265) -/

namespace Sys2Proof.Machine

/-- WinPut's byte stands at the first new address (44_output_window.md R261). -/
theorem read_winPut_length (b : Byte) (out : Memory) : (winPut b out).read out.length = some b :=
  List.getElem?_concat_length

/-- WinCopy of one byte more is WinPut of WinGet's byte, then the rest of the copy (44_output_window.md R263). -/
theorem winCopy_succ_eq_some {d : U32} {n : Nat} {out out' : Memory} :
    winCopy d (n + 1) out = some out' ↔ ∃ b, winGet d out = some b ∧ winCopy d n (winPut b out) = some out' := by
  cases hget : winGet d out <;> simp [winCopy, hget]

/-- WinCopy keeps the bytes it starts from (44_output_window.md R263). -/
theorem read_winCopy_old {d : U32} {n : Nat} {out out' : Memory} (h : winCopy d n out = some out') {a : Nat}
    (ha : a < out.length) : out'.read a = out.read a := by
  obtain ⟨ext, -, rfl⟩ := winCopy_append h
  exact Memory.read_append_left ext ha

/-- The bytes that WinCopy appends repeat the last `d + 1` of those before them (44_output_window.md R265). The copy goes
on from a window longer by one byte, so its last `d + 1` bytes stand one address further; as the new byte equals the one
dropped in front, they are the same bytes, rotated by one. -/
theorem read_winCopy_new {d : U32} {n : Nat} {out out' : Memory} (hd : d.toNat < out.length)
    (h : winCopy d n out = some out') {i : Nat} (hi : i < n) :
    out'.read (out.length + i) = out.read (out.length - (d.toNat + 1) + i % (d.toNat + 1)) := by
  induction n generalizing out i with
  | zero => exact absurd hi (Nat.not_lt_zero i)
  | succ n ih =>
    obtain ⟨b, hget, hcopy⟩ := winCopy_succ_eq_some.mp h
    obtain ⟨-, hb⟩ := winGet_eq_some.mp hget
    rw [Nat.sub_sub] at hb
    have hlen : (winPut b out).length = out.length + 1 := List.length_append
    cases i with
    | zero =>
      rw [Nat.add_zero, Nat.zero_mod, Nat.add_zero, hb, read_winCopy_old hcopy (by omega), read_winPut_length]
    | succ i =>
      have hrest := ih (by omega) hcopy (Nat.lt_of_succ_lt_succ hi)
      rw [hlen, Nat.add_sub_add_right, Nat.add_right_comm, Nat.add_assoc] at hrest
      rw [hrest, ← Nat.mod_add_mod i]
      have hrot : i % (d.toNat + 1) < d.toNat + 1 := Nat.mod_lt _ d.toNat.succ_pos
      rcases Nat.lt_succ_iff_lt_or_eq.mp hrot with hlt | hlast
      · rw [Nat.mod_eq_of_lt (Nat.succ_lt_succ hlt), winPut, Memory.read_append_left _ (by omega)]
        congr 1; omega
      · rw [hlast, Nat.mod_self, Nat.add_zero, hb, Nat.sub_add_cancel hd.le, read_winPut_length]

/-- A copy that goes through leaves the window of R265 (44_output_window.md R263, R265). -/
theorem isCopy_of_winCopy {d : U32} {n : Nat} {s : State} {out : Memory} (hd : d.toNat < s.produced)
    (h : winCopy d n s.out = some out) : IsCopy d n s out := by
  refine ⟨?length, fun _ => read_winCopy_old h, fun _ => read_winCopy_new hd h⟩
  obtain ⟨ext, rfl, rfl⟩ := winCopy_append h
  exact List.length_append

/-- Settles O36: WinCopy goes through by `winCopy_isSome`, and its window is the copy by `isCopy_of_winCopy`. -/
theorem winCopyIsPeriodic : Obligations.WinCopyIsPeriodic := fun _d n _s hd =>
  (winCopy_isSome n hd).imp fun _out hcopy => ⟨hcopy, isCopy_of_winCopy hd hcopy⟩

/-- CheckDist on an empty window (44_output_window.md R264). -/
theorem checkDist_of_empty (d : U32) {s : State} (h : s.produced = 0) : checkDist d s = some .emptyWindow :=
  if_pos h

/-- CheckDist of a distance past a window that is not empty (44_output_window.md R264). -/
theorem checkDist_of_produced_le {d : U32} {s : State} (hpos : 0 < s.produced) (h : s.produced ≤ d.toNat) :
    checkDist d s = some .insufficientHistoryForRepeat :=
  (if_neg hpos.ne').trans (if_pos h)

/-- CheckDist of a distance that the window holds and the dictionary does not (44_output_window.md R264). -/
theorem checkDist_of_dictionarySize_le {d : U32} {s : State} (hd : d.toNat < s.produced) (h : s.dictionarySize ≤ d) :
    checkDist d s = some .distanceExceedsDictionary :=
  (if_neg (Nat.ne_zero_of_lt hd)).trans ((if_neg hd.not_ge).trans (if_pos h))

/-- Settles O37: one lemma for each failure, in CheckDist's order, and `checkDist_eq_none` where none is raised. -/
theorem checkDistOrder : Obligations.CheckDistOrder := fun d _s =>
  ⟨checkDist_of_empty d, checkDist_of_produced_le, checkDist_of_dictionarySize_le,
    fun hd hdict => checkDist_eq_none.mpr ⟨hd, hdict⟩⟩

end Sys2Proof.Machine

/-! ## Running a symbol (45_decode_loop.md R282 to R292) -/

namespace Sys2Proof.Machine

/-! ### LIT and EOS -/

/-- UpdateLiteral in exact arithmetic (42_state_machine.md R191). -/
theorem updateLiteral_val (s : LzmaState) :
    (updateLiteral s).val = if s.val < 4 then 0 else if s.val < 10 then s.val - 3 else s.val - 6 := by
  revert s
  decide

/-- Settles O26: `state` by `updateLiteral_val`, `remaining` by `countDown_eq`. -/
theorem litAppendsByte : Obligations.LitAppendsByte := by
  intro b s n hn
  obtain rfl : updateLiteral s.lzmaState = n := Fin.ext ((updateLiteral_val s.lzmaState).trans hn.symm)
  exact congrArg Host.Outcome.next (countDown_eq 1 _)

theorem eosEffect_of_unbounded (len : Nat) {s : State} (h : s.bounded = false) :
    eosEffect len s = reachDone .endMarker s :=
  if_neg (by simp [h])

theorem eosEffect_of_bounded (len : Nat) {s : State} (h : s.bounded = true) :
    eosEffect len s = raiseFail .prematureEndMarker s :=
  if_pos h

/-- Settles O29, by the two modes of EOS. -/
theorem eosEndsStream : Obligations.EosEndsStream :=
  ⟨fun len _ h => congrArg Host.Outcome.next (eosEffect_of_unbounded len h),
    fun len _ h => congrArg Host.Outcome.next (eosEffect_of_bounded len h)⟩

/-- Settles O34: in both modes EOS writes control registers and the outcome alone. -/
theorem eosFrame : Obligations.EosFrame := by
  intro len s t h
  obtain rfl : eosEffect len s = t := Host.Outcome.next.inj h
  by_cases hb : s.bounded = true
  · rw [eosEffect_of_bounded len hb]
    exact ⟨rfl, fun _ => rfl⟩
  · rw [eosEffect_of_unbounded len (Bool.eq_false_of_not_eq_true hb)]
    exact ⟨rfl, fun _ => rfl⟩

/-! ### The checks of a copy -/

theorem CopyAllowed.checkDist_eq_none {d : U32} {len : Nat} {s : State} (h : CopyAllowed d len s) :
    checkDist d s = none :=
  Machine.checkDist_eq_none.mpr ⟨h.1, h.2.1⟩

theorem CopyAllowed.exceedsRemaining_eq_false {d : U32} {len : Nat} {s : State} (h : CopyAllowed d len s) :
    exceedsRemaining len s = false :=
  Machine.exceedsRemaining_eq_false.mpr h.2.2

theorem exceedsRemaining_eq_true {len : Nat} {s : State} :
    exceedsRemaining len s = true ↔ s.bounded = true ∧ s.remaining.toNat < len := by
  simp [exceedsRemaining]

/-! ### MATCH -/

/-- A MATCH fails as CheckDist of its distance does (45_decode_loop.md R283). -/
theorem newMatchEffect_of_checkDist {len : Nat} {dist : U32} {s : State} {k : FailKind}
    (h : checkDist dist s = some k) : newMatchEffect len dist s = raiseFail k s := by
  rw [newMatchEffect, h]
  rfl

/-- A MATCH whose length passes the declared size fails (45_decode_loop.md R283). -/
theorem newMatchEffect_of_exceeds {len : Nat} {dist : U32} {s : State} (h : checkDist dist s = none)
    (he : exceedsRemaining len s = true) : newMatchEffect len dist s = raiseFail .uncompressedSizeExceeded s := by
  rw [newMatchEffect, h, failIf_none, Res.andThen_ok, he]
  rfl

/-- Settles O27: with every check passed only the copying case of a MATCH is left. -/
theorem matchCompletes : Obligations.MatchCompletes := by
  intro len dist s h
  rcases newMatchEffect_cases len dist s with ⟨k, hk, -⟩ | ⟨-, he, -⟩ | ⟨-, -, ext, -, hcopy, heq⟩
  · cases h.checkDist_eq_none.symm.trans hk
  · cases h.exceedsRemaining_eq_false.symm.trans he
  · exact ⟨s.out ++ ext, isCopy_of_winCopy h.1 hcopy, congrArg Host.Outcome.next (heq.trans (countDown_eq len _))⟩

/-- Settles O28: CheckDist's three failures in its order, then the length's. -/
theorem matchFailures : Obligations.MatchFailures := fun _len dist _s =>
  ⟨fun hempty => congrArg Host.Outcome.next (newMatchEffect_of_checkDist (checkDist_of_empty dist hempty)),
    fun hpos hd => congrArg Host.Outcome.next (newMatchEffect_of_checkDist (checkDist_of_produced_le hpos hd)),
    fun hd hdict =>
      congrArg Host.Outcome.next (newMatchEffect_of_checkDist (checkDist_of_dictionarySize_le hd hdict)),
    fun hd hdict hb hlen => congrArg Host.Outcome.next
      (newMatchEffect_of_exceeds (checkDist_eq_none.mpr ⟨hd, hdict⟩) (exceedsRemaining_eq_true.mpr ⟨hb, hlen⟩))⟩

/-! ### SHORTREP and LONGREP0 to LONGREP3 -/

/-- A SHORTREP fails as CheckDist of `rep0` does (45_decode_loop.md R285). -/
theorem shortRepEffect_of_checkDist {s : State} {k : FailKind} (h : checkDist s.rep0 s = some k) :
    shortRepEffect s = raiseFail k s := by
  rw [shortRepEffect, h]
  rfl

/-- Settles O30: a copy of one byte puts the byte that WinGet reads. -/
theorem shortRepCompletes : Obligations.ShortRepCompletes := by
  intro s hd hdict
  rcases shortRepEffect_cases s with ⟨k, hk, -⟩ | ⟨-, ext, -, hcopy, heq⟩
  · cases (checkDist_eq_none.mpr ⟨hd, hdict⟩).symm.trans hk
  · obtain ⟨b, hget, hput⟩ := winCopy_succ_eq_some.mp hcopy
    have hout : s.out ++ [b] = s.out ++ ext := Option.some.inj hput
    rw [← hout] at heq
    exact ⟨b, (winGet_eq_some.mp hget).2, congrArg Host.Outcome.next (heq.trans (countDown_eq 1 _))⟩

/-- A LONGREPk fails as CheckDist of its rep does (45_decode_loop.md R289). -/
theorem longRepEffect_of_checkDist (k : Fin 4) {len : Nat} {s : State} {f : FailKind}
    (h : checkDist (repAt k s) s = some f) : longRepEffect k len s = raiseFail f s := by
  rw [longRepEffect, h]
  rfl

/-- A LONGREPk whose length passes the declared size fails (45_decode_loop.md R289). -/
theorem longRepEffect_of_exceeds (k : Fin 4) {len : Nat} {s : State} (h : checkDist (repAt k s) s = none)
    (he : exceedsRemaining len s = true) : longRepEffect k len s = raiseFail .repeatLengthExceedsRemaining s := by
  rw [longRepEffect, h, failIf_none, Res.andThen_ok, he]
  rfl

/-- A LONGREPk whose checks pass copies from its rep, moves it to the front and counts (45_decode_loop.md R289, R292). -/
theorem longRepEffect_of_copyAllowed (k : Fin 4) {len : Nat} {s : State} (h : CopyAllowed (repAt k s) len s) :
    ∃ out : Memory, IsCopy (repAt k s) len s out ∧
      longRepEffect k len s =
        { promoteRep k s with out := out, lzmaState := updateRep s.lzmaState, remaining := remainingAfter len s } := by
  rcases longRepEffect_cases k len s with ⟨f, hf, -⟩ | ⟨-, he, -⟩ | ⟨-, -, ext, -, hcopy, heq⟩
  · cases h.checkDist_eq_none.symm.trans hf
  · cases h.exceedsRemaining_eq_false.symm.trans he
  · refine ⟨s.out ++ ext, isCopy_of_winCopy h.1 hcopy, heq.trans ?_⟩
    rw [countDown_eq]
    simp [remainingAfter]

/-- Settles O31, by `longRepEffect_of_copyAllowed` for each of the four reps. -/
theorem longRepCompletes : Obligations.LongRepCompletes := by
  have completes (k : Fin 4) (len : Nat) (s : State) (h : CopyAllowed (repAt k s) len s) :
      ∃ out : Memory, IsCopy (repAt k s) len s out ∧
        (.next (longRepEffect k len s) : Host.Outcome State Fault Refusal) =
          .next { promoteRep k s with out := out, lzmaState := updateRep s.lzmaState,
                                      remaining := remainingAfter len s } :=
    (longRepEffect_of_copyAllowed k h).imp fun _ hout => hout.imp_right (congrArg Host.Outcome.next)
  exact ⟨completes 0, completes 1, completes 2, completes 3⟩

/-- Settles O32: the five kinds fail as CheckDist of their rep does; the four that have a length check it next. -/
theorem repFailures : Obligations.RepFailures := by
  intro s d i len hi
  have hkind : (i = .shortRep ∧ d = s.rep0) ∨ ∃ k, d = repAt k s ∧ exec i s = .next (longRepEffect k len s) := by
    rcases hi with ⟨rfl, rfl, -⟩ | ⟨rfl, rfl⟩ | ⟨rfl, rfl⟩ | ⟨rfl, rfl⟩ | ⟨rfl, rfl⟩
    · exact .inl ⟨rfl, rfl⟩
    · exact .inr ⟨0, rfl, rfl⟩
    · exact .inr ⟨1, rfl, rfl⟩
    · exact .inr ⟨2, rfl, rfl⟩
    · exact .inr ⟨3, rfl, rfl⟩
  have fails {f : FailKind} (h : checkDist d s = some f) : exec i s = .next (raiseFail f s) := by
    rcases hkind with ⟨rfl, rfl⟩ | ⟨k, rfl, hexec⟩
    · exact congrArg Host.Outcome.next (shortRepEffect_of_checkDist h)
    · rw [hexec, longRepEffect_of_checkDist k h]
  have exceeds (hne : i ≠ .shortRep) (h : checkDist d s = none) (he : exceedsRemaining len s = true) :
      exec i s = .next (raiseFail .repeatLengthExceedsRemaining s) := by
    rcases hkind with ⟨hshort, -⟩ | ⟨k, rfl, hexec⟩
    · exact absurd hshort hne
    · rw [hexec, longRepEffect_of_exceeds k h he]
  exact ⟨fun hempty => fails (checkDist_of_empty d hempty),
    fun hpos hd => fails (checkDist_of_produced_le hpos hd),
    fun hd hdict => fails (checkDist_of_dictionarySize_le hd hdict),
    fun hne hd hdict hb hlen =>
      exceeds hne (checkDist_eq_none.mpr ⟨hd, hdict⟩) (exceedsRemaining_eq_true.mpr ⟨hb, hlen⟩)⟩

/-! ### What a storing symbol leaves unchanged -/

/-- A symbol that is no EOS fails or stores. -/
theorem symbolEffect_of_ne_eos {y : Symbol} (hy : ∀ len, y ≠ .eos len) (s : State) :
    (∃ k, symbolEffect y s = raiseFail k s) ∨
      ∃ ext : Memory, ext.length = symbolLen y ∧ symbolEffect y s = stored y ext s := by
  rcases symbolEffect_cases y s with hfail | ⟨len, hlen, -⟩ | ⟨-, -, ext, hlen, h⟩
  · exact .inl hfail
  · exact absurd hlen (hy len)
  · exact .inr ⟨ext, hlen, h.trans (stored_eq y ext s)⟩

/-- Appended bytes are read at their own addresses alone (20_memory.md R75, R82). -/
theorem Memory.read_append_outside {m ext : Memory} {a : Nat} (h : a < m.length ∨ m.length + ext.length ≤ a) :
    Memory.read (m ++ ext) a = m.read a := by
  rcases h with hlt | hge
  · exact Memory.read_append_left ext hlt
  · rw [Memory.read_eq_none.mpr (by rwa [List.length_append]), Memory.read_eq_none.mpr (by omega)]

theorem remainingAfter_of_unbounded {s : State} (h : s.bounded = false) (n : Nat) :
    remainingAfter n s = s.remaining :=
  if_neg (by simp [h])

/-- Settles O33: a failure changes three fields; a store is the one update `stored`. -/
theorem storingSymbolFrame : Obligations.StoringSymbolFrame := by
  intro y s t hy h
  obtain rfl : symbolEffect y s = t := Host.Outcome.next.inj ((exec_symbol y s).symm.trans h)
  rcases symbolEffect_of_ne_eos hy s with ⟨k, he⟩ | ⟨ext, hlen, he⟩ <;> rw [he]
  · exact ⟨rfl, rfl, rfl, rfl, rfl, rfl, rfl, rfl, rfl, rfl, rfl, rfl, rfl, .inr ⟨k, rfl⟩, fun _ => rfl,
      fun _ _ => rfl, fun _ => ⟨rfl, rfl, rfl, rfl⟩, fun _ => ⟨rfl, rfl⟩, fun _ => rfl⟩
  · refine ⟨rfl, rfl, rfl, rfl, rfl, rfl, rfl, rfl, rfl, rfl, rfl, rfl, rfl, .inl ⟨rfl, rfl, rfl⟩,
      fun hb => remainingAfter_of_unbounded hb _, fun a ha => Memory.read_append_outside (by rwa [hlen]),
      ?_, ?_, ?_⟩
    · rintro (⟨b, rfl⟩ | rfl | ⟨len, rfl⟩) <;> exact ⟨rfl, rfl, rfl, rfl⟩
    · rintro ⟨len, rfl⟩
      exact ⟨rfl, rfl⟩
    · rintro ⟨len, rfl⟩
      rfl

end Sys2Proof.Machine

/-! ## STEP and the decode loop (45_decode_loop.md R280, R290 to R296) -/

namespace Sys2Proof.Machine

/-! ### STEP -/

theorem sizeReached_eq_true {s : State} : sizeReached s = true ↔ s.bounded = true ∧ s.remaining = 0 := by
  simp [sizeReached]

theorem stepEffect_of_sizeReached {s : State} (hs : s.status = .running) (hsize : sizeReached s = true) :
    stepEffect s = reachDone .sizeReached (respondOk s) :=
  (stepEffect_running hs).trans (if_pos hsize)

theorem stepEffect_of_not_sizeReached {s : State} (hs : s.status = .running) (hsize : ¬ sizeReached s = true) :
    stepEffect s = decodeSymbolStep (respondOk s) :=
  (stepEffect_running hs).trans (if_neg hsize)

theorem decodeSymbolStep_of_ok {s t : State} {y : Symbol} (h : fetchSymbol s = .ok y t) :
    decodeSymbolStep s = symbolEffect y t := by
  simp only [decodeSymbolStep, h]

theorem decodeSymbolStep_of_fail {s t : State} {k : FailKind} (h : fetchSymbol s = .fail k t) :
    decodeSymbolStep s = raiseFail k t := by
  simp only [decodeSymbolStep, h]

/-- STEP runs the symbol it reads (45_decode_loop.md R281). -/
theorem exec_step_of_ok {s t : State} {y : Symbol} (hs : s.status = .running)
    (hsize : ¬ (s.bounded = true ∧ s.remaining = 0)) (h : fetchSymbol (respondOk s) = .ok y t) :
    exec .step s = exec y.toInstr t := by
  rw [exec_symbol, exec, execStep, stepEffect_of_not_sizeReached hs (sizeReached_eq_true.not.mpr hsize),
    decodeSymbolStep_of_ok h]

/-- Settles O12, by `exec_step_of_ok`; every STEP answers its effect. -/
theorem stepRunsFetchedSymbol : Obligations.StepRunsFetchedSymbol := fun s _t _y hs hsize h =>
  ⟨exec_step_of_ok hs hsize h, stepEffect s, rfl⟩

/-- Once the loop has ended a STEP has no effect (45_decode_loop.md R280). -/
theorem stepEffect_of_ended {s : State} (h : s.status = .done ∨ s.status = .verified ∨ s.status = .failed) :
    stepEffect s = respondOk s := by
  rcases h with h | h | h <;> simp only [stepEffect, h]

/-- Settles O13, status by status. -/
theorem stepInEveryStatus : Obligations.StepInEveryStatus :=
  ⟨fun _ => execStep_before_init, fun _ h => congrArg Host.Outcome.next (stepEffect_of_ended h),
    fun _ hs hb hrem =>
      congrArg Host.Outcome.next (stepEffect_of_sizeReached hs (sizeReached_eq_true.mpr ⟨hb, hrem⟩)),
    fun _ _ _ => exec_step_of_ok,
    fun _ _ _ hs hsize h => congrArg Host.Outcome.next
      ((stepEffect_of_not_sizeReached hs (sizeReached_eq_true.not.mpr hsize)).trans (decodeSymbolStep_of_fail h))⟩

/-! ### The rep path (45_decode_loop.md R290) -/

theorem runFetch_decide1_of_ok {α : Type} {slot : Slot} {zero one : Fetch α} {s t : State} {b : Bool}
    (h : decodeBit slot s = .ok b t) :
    runFetch (decide1 slot zero one) s = runFetch (if b then one else zero) t := by
  simp only [decide1, runFetch, takeDecision, h]

theorem runFetch_decide1_of_fail {α : Type} {slot : Slot} {zero one : Fetch α} {s t : State} {k : FailKind}
    (h : decodeBit slot s = .fail k t) : runFetch (decide1 slot zero one) s = .fail k t := by
  simp only [decide1, runFetch, takeDecision, h]

/-- is-match 1 and is-rep 1 lead to the rep path (30_encoding.md R102). -/
theorem fetchSymbol_of_rep {s s1 s2 : State} (hmatch : decodeBit (.isMatch s.lzmaState (posState s)) s = .ok true s1)
    (hrep : decodeBit (.isRep s.lzmaState) s1 = .ok true s2) :
    fetchSymbol s = runFetch (repField (contextOf s)) s2 :=
  (runFetch_decide1_of_ok hmatch).trans (runFetch_decide1_of_ok hrep)

/-- With no output the rep path fails before is-rep-g0. -/
theorem repField_of_empty {s : State} (h : s.produced = 0) : repField (contextOf s) = .fail .emptyWindow := by
  have hpath : (contextOf s).repPath = some .emptyWindow := if_pos h
  rw [repField, hpath]
  rfl

/-- With output the rep path goes on with is-rep-g0; 0 there leads to is-rep0-long, and 0 there to SHORTREP. -/
theorem repField_of_output {s : State} (h : s.produced ≠ 0) :
    ∃ one one' : Fetch Symbol, repField (contextOf s) =
      decide1 (.isRepG0 s.lzmaState) (decide1 (.isRep0Long s.lzmaState (posState s)) (.done .shortRep) one') one := by
  have hpath : (contextOf s).repPath = none := if_neg h
  rw [repField, hpath]
  exact ⟨_, _, rfl⟩

/-- Settles O14, by the two cases of the rep path. -/
theorem repPathNeedsOutput : Obligations.RepPathNeedsOutput := by
  refine ⟨fun s s1 s2 hempty hmatch hrep => ?empty, fun s s1 s2 hout hmatch hrep => ?output⟩
  case empty =>
    rw [fetchSymbol_of_rep hmatch hrep, repField_of_empty hempty]
    rfl
  case output =>
    obtain ⟨one, one', hfield⟩ := repField_of_output hout
    rw [fetchSymbol_of_rep hmatch hrep, hfield]
    exact ⟨fun k t => runFetch_decide1_of_fail,
      fun s3 s4 hg0 hlong => (runFetch_decide1_of_ok hg0).trans (runFetch_decide1_of_ok hlong)⟩

/-! ### What a failing STEP leaves unchanged -/

/-- A STEP that fails raises its failure where the decoding stands, with nothing written but the decoder's own registers
and slots (92_eei_decisions.md D20). -/
theorem stepEffect_failed {s : State} (hs : s.status = .running) (h : (stepEffect s).status = .failed) :
    ∃ k u, DecoderFrame (respondOk s) u ∧ stepEffect s = raiseFail k u := by
  by_cases hsize : sizeReached s = true
  · rw [stepEffect_of_sizeReached hs hsize] at h
    cases h
  rw [stepEffect_of_not_sizeReached hs hsize] at h ⊢
  rcases decodeSymbolStep_cases (respondOk s) with ⟨y, u, -, hf, he⟩ | ⟨k, u, -, hf, he⟩ <;> rw [he] at h ⊢
  · rcases symbolEffect_outcomes y u with ⟨k, he⟩ | ⟨-, he⟩ | ⟨-, ext, -, he⟩ <;> rw [he] at h ⊢
    · exact ⟨k, u, hf, rfl⟩
    · cases h
    · have hu : u.status = .running := hf.status_eq.trans hs
      cases hu.symm.trans h
  · exact ⟨k, u, hf, rfl⟩

/-- Settles O19, by `stepEffect_failed`. -/
theorem failedStepCommitsNothing : Obligations.FailedStepCommitsNothing := by
  intro s t hs h hfailed
  obtain rfl : stepEffect s = t := Host.Outcome.next.inj h
  obtain ⟨k, u, hf, he⟩ := stepEffect_failed hs hfailed
  obtain ⟨r, c, n, p, rfl⟩ := hf.exists_eq
  rw [he]
  exact ⟨rfl, rfl, rfl, rfl, rfl, rfl, rfl, rfl, rfl, rfl, rfl, rfl, rfl⟩

/-! ### The bytes still to produce (45_decode_loop.md R291) -/

/-- What a bounded session produces in all: the bytes of the output and those that remain. -/
def totalSize (s : State) : Nat := s.produced + s.remaining.toNat

theorem DecoderFrame.totalSize_eq {s t : State} (h : DecoderFrame s t) : totalSize t = totalSize s := by
  rw [h]
  rfl

/-- A store within `remaining` moves its bytes from `remaining` to the output. -/
theorem stored_totalSize {y : Symbol} {ext : Memory} {s : State} (hb : s.bounded = true)
    (hlen : ext.length = symbolLen y) (hfit : symbolLen y ≤ s.remaining.toNat) :
    totalSize (stored y ext s) = totalSize s := by
  have hrem : (remainingAfter (symbolLen y) s).toNat = s.remaining.toNat - symbolLen y := by
    have hlt := s.remaining.isLt
    have hn : (BitVec.ofNat 64 (symbolLen y)).toNat = symbolLen y := by
      rw [BitVec.toNat_ofNat, Nat.mod_eq_of_lt (by omega)]
    rw [remainingAfter, if_pos hb, BitVec.toNat_sub_of_le (by rwa [BitVec.le_def, hn]), hn]
  have hout : (stored y ext s).produced = s.produced + symbolLen y := by
    rw [← hlen]
    exact List.length_append
  have hrem' : (stored y ext s).remaining = remainingAfter (symbolLen y) s := rfl
  rw [totalSize, totalSize, hout, hrem', hrem]
  omega

/-- A symbol that STEP's size test lets through is within `remaining`: a LIT and a SHORTREP take one byte, the others check
their length. -/
theorem symbolLen_le_of_fits {y : Symbol} {s : State} (hb : s.bounded = true) (hpos : s.remaining ≠ 0)
    (h : fits y s) : symbolLen y ≤ s.remaining.toNat := by
  have hone : 1 ≤ s.remaining.toNat := Nat.one_le_iff_ne_zero.mpr fun h0 => hpos (BitVec.eq_of_toNat_eq h0)
  cases y with
  | lit _ => exact hone
  | shortRep => exact hone
  | _ => exact h hb

theorem symbolEffect_totalSize (y : Symbol) {s : State} (hb : s.bounded = true) (hpos : s.remaining ≠ 0) :
    totalSize (symbolEffect y s) = totalSize s := by
  rcases symbolEffect_cases y s with ⟨k, he⟩ | ⟨len, -, hb', -⟩ | ⟨-, hfit, ext, hlen, he⟩
  · rw [he]
    rfl
  · cases hb.symm.trans hb'
  · rw [he, stored_eq]
    exact stored_totalSize hb hlen (symbolLen_le_of_fits hb hpos hfit)

/-- Once configured, a move of a bounded session keeps the total: only a symbol stores, and it counts what it stores. -/
theorem Move.totalSize_eq {s t : State} (h : Move s t) (hs : s.status ≠ .unconfigured) (hb : s.bounded = true) :
    totalSize t = totalSize s := by
  cases h with
  | configure p d m hu => exact absurd hu hs
  | symbol y u _ hsize _ hf =>
    obtain ⟨r, c, n, p, rfl⟩ := hf.exists_eq
    exact symbolEffect_totalSize y hb fun hrem => by simp [sizeReached, hb, show s.remaining = 0 from hrem] at hsize
  | failDecoding k u _ _ hf => exact hf.totalSize_eq
  | _ => rfl

/-- No move goes back to Unconfigured (10_state.md R38). -/
theorem Move.status_ne_unconfigured {s t : State} (h : Move s t) (hs : s.status ≠ .unconfigured) :
    t.status ≠ .unconfigured := by
  rcases h.status_cases with ht | ⟨-, ht⟩ | ⟨-, ht⟩ | ⟨-, ht⟩ | ⟨-, ht⟩ <;> rw [ht]
  · exact hs
  all_goals decide

/-- A configured session whose size is declared. -/
def SizeDeclared (s : State) : Prop := s.status ≠ .unconfigured ∧ s.bounded = true

/-- From `s` with its size declared, `t` has it declared too, and the same total. -/
def KeepsTotal (s t : State) : Prop := SizeDeclared s → SizeDeclared t ∧ totalSize t = totalSize s

theorem KeepsTotal.refl (s : State) : KeepsTotal s s := fun hs => ⟨hs, rfl⟩

theorem KeepsTotal.trans {s t u : State} (h : KeepsTotal s t) (h' : KeepsTotal t u) : KeepsTotal s u := by
  intro hs
  obtain ⟨ht, htotal⟩ := h hs
  obtain ⟨hu, htotal'⟩ := h' ht
  exact ⟨hu, htotal'.trans htotal⟩

theorem Move.keepsTotal {s t : State} (h : Move s t) : KeepsTotal s t := by
  rintro ⟨hs, hb⟩
  obtain ⟨-, -, -, -, hbounded⟩ := h.sameConfig hs
  exact ⟨⟨h.status_ne_unconfigured hs, hbounded.trans hb⟩, h.totalSize_eq hs hb⟩

theorem Finalized.keepsTotal {s t : State} (h : Finalized s t) : KeepsTotal s t := by
  rintro ⟨-, hb⟩
  cases h <;> exact ⟨⟨by simp, hb⟩, rfl⟩

/-- Settles O55: every move keeps the total, as does FINALIZE; the taking of a command writes none of it. -/
theorem producedPlusRemaining : Obligations.ProducedPlusRemaining := by
  intro s t hs hb h
  have keep : KeepsTotal s t :=
    step_keeps .refl (fun _ _ _ => .trans) (fun _ _ hs => ⟨hs, rfl⟩) (fun _ _ hm => hm.keepsTotal)
      (fun _ _ hf => hf.keepsTotal) h
  exact (keep ⟨hs, hb⟩).2

/-! ### RUN (45_decode_loop.md R295) -/

theorem execRun_after_init {s : State} (hu : s.status ≠ .unconfigured) (hc : s.status ≠ .configured) :
    execRun s = runToEnd s := by
  unfold execRun
  split
  · exact absurd ‹_› hu
  · exact absurd ‹_› hc
  all_goals rfl

/-- RUN's loop answers the state it ends in, if it ends within R296's bound. -/
theorem runToEnd_eq_next {s t : State} : runToEnd s = .next t ↔ runLoop (runBound s) (respondOk s) = some t := by
  unfold runToEnd
  cases runLoop (runBound s) (respondOk s) <;> simp

/-- Settles O15, by `runLoop_eq_some`. -/
theorem runRepeatsStep : Obligations.RunRepeatsStep := by
  refine ⟨fun _ => execRun_before_init, fun s t hu hc h => ?_⟩
  obtain ⟨k, -, ht, hend, hall⟩ := runLoop_eq_some (runToEnd_eq_next.mp ((execRun_after_init hu hc).symm.trans h))
  exact ⟨k, ht, hend, hall⟩

/-! ### How many decisions a byte lasts (45_decode_loop.md R296) -/

/-- A decision narrows the interval by at least 31 of its 2048 parts. -/
theorem decisionState_range_le {s : State} (hp : ProbsInv s) (d : Decision) :
    (decisionState d s).range.toNat + 31 * (s.range.toNat / 2048) ≤ s.range.toNat := by
  cases d with
  | adaptive slot =>
    obtain ⟨hlo, hhi⟩ := boundOf_bounds hp slot
    simp only [decisionState]
    split
    · rw [takeZero_range]
      omega
    · rw [takeOne_range, BitVec.toNat_sub_of_le (BitVec.le_def.mpr (by omega))]
      omega
  | direct =>
    rw [decisionState, takeDirect_range, halfRange_toNat]
    omega

/-- The range after `j` decisions without a byte: what it has above 2047, the most that the rounding of a part can keep,
has shrunk by 2017/2048 with each. -/
def NarrowedBy (j : Nat) (s : State) : Prop :=
  (s.range.toNat - 2047) * 2048 ^ j ≤ (2 ^ 32 - 2048) * 2017 ^ j

theorem NarrowedBy.zero (s : State) : NarrowedBy 0 s := by
  have h := s.range.isLt
  simp only [NarrowedBy, pow_zero, Nat.mul_one]
  omega

theorem NarrowedBy.succ {j : Nat} {s : State} (h : NarrowedBy j s) (hp : ProbsInv s) (d : Decision) :
    NarrowedBy (j + 1) (decisionState d s) := by
  have hle := decisionState_range_le hp d
  have hone : ((decisionState d s).range.toNat - 2047) * 2048 ≤ (s.range.toNat - 2047) * 2017 := by omega
  calc ((decisionState d s).range.toNat - 2047) * 2048 ^ (j + 1)
      = ((decisionState d s).range.toNat - 2047) * 2048 * 2048 ^ j := by ring
    _ ≤ (s.range.toNat - 2047) * 2017 * 2048 ^ j := Nat.mul_le_mul_right _ hone
    _ = (s.range.toNat - 2047) * 2048 ^ j * 2017 := by ring
    _ ≤ (2 ^ 32 - 2048) * 2017 ^ j * 2017 := Nat.mul_le_mul_right _ h
    _ = (2 ^ 32 - 2048) * 2017 ^ (j + 1) := by ring

/-- No range of at least 2^24 is left after 364 decisions without a byte. The powers are squares of shorter ones, which
compute. -/
theorem not_narrowedBy_364 {s : State} (hr : Config.top ≤ s.range) : ¬ NarrowedBy 364 s := by
  have hr' : 2 ^ 24 ≤ s.range.toNat := hr
  have hpow : (2 ^ 32 - 2048) * 2017 ^ 364 < (2 ^ 24 - 2047) * 2048 ^ 364 := by
    rw [show 364 = 182 * 2 from rfl, pow_mul, pow_mul]
    norm_num
  have hle : (2 ^ 24 - 2047) * 2048 ^ 364 ≤ (s.range.toNat - 2047) * 2048 ^ 364 := Nat.mul_le_mul_right _ (by omega)
  exact fun h => absurd (hle.trans h) (Nat.not_le.mpr hpow)

/-- At most `n` more decisions go through: 364 for each byte of input left, and 363 less those since the last byte. -/
def DecisionsLeft (n : Nat) (s : State) : Prop :=
  ∃ j ≤ 363, NarrowedBy j s ∧ 364 * (s.inp.length - s.cursor) + (363 - j) ≤ n

/-- A decision that goes through uses up one: it narrows the range, which 363 can do in a row, or takes a byte. -/
theorem DecisionsLeft.of_takeDecision {n : Nat} {s t : State} {d : Decision} {b : Bool} (h : DecisionsLeft n s)
    (hp : ProbsInv s) (hd : takeDecision d s = .ok b t) : ∃ m, n = m + 1 ∧ DecisionsLeft m t := by
  obtain ⟨j, hj, hnarrow, hn⟩ := h
  rcases takeDecision_cases d s with ⟨htop, he⟩ | ⟨-, byte, hlt, -, he⟩ | ⟨-, -, he⟩ <;> rw [he] at hd <;> cases hd
  · have hnext := hnarrow.succ hp d
    have hj' : j ≠ 363 := by
      rintro rfl
      exact not_narrowedBy_364 htop hnext
    refine ⟨n - 1, by omega, j + 1, by omega, hnext, ?_⟩
    rw [decisionState_inp, decisionState_cursor]
    omega
  · refine ⟨n - 1, by omega, 0, by omega, .zero _, ?_⟩
    have hinp : (shiftIn byte (decisionState d s)).inp = s.inp := decisionState_inp d s
    have hcursor : (shiftIn byte (decisionState d s)).cursor = s.cursor + 1 :=
      congrArg (· + 1) (decisionState_cursor d s)
    rw [hinp, hcursor]
    omega

theorem DecisionsLeft.mono {n m : Nat} {s : State} (h : DecisionsLeft n s) (hnm : n ≤ m) : DecisionsLeft m s := by
  obtain ⟨j, hj, hnarrow, hn⟩ := h
  exact ⟨j, hj, hnarrow, hn.trans hnm⟩

/-- A tree of decisions uses up no more than there are. -/
theorem DecisionsLeft.of_runFetch {α : Type} {p : Fetch α} {n : Nat} {s t : State} {a : α} (h : DecisionsLeft n s)
    (hp : ProbsInv s ∧ CursorInv s) (hr : runFetch p s = .ok a t) : DecisionsLeft n t := by
  refine (runFetch_keeps_ok (fun s => (ProbsInv s ∧ CursorInv s) ∧ DecisionsLeft n s) ?_ p ⟨hp, h⟩ hr).2
  rintro d s b t ⟨hp, h⟩ hd
  have hk := takeDecision_keeps d hp
  rw [hd] at hk
  obtain ⟨m, rfl, hm⟩ := h.of_takeDecision hp.1 hd
  exact ⟨hk, hm.mono (Nat.le_succ m)⟩

/-- A symbol that is read uses up at least the decision of its is-match. -/
theorem DecisionsLeft.of_fetchSymbol {n : Nat} {s t : State} {y : Symbol} (h : DecisionsLeft n s)
    (hp : ProbsInv s ∧ CursorInv s) (hy : fetchSymbol s = .ok y t) : ∃ m, n = m + 1 ∧ DecisionsLeft m t := by
  rw [fetchSymbol, symbolFetch, decide1, runFetch] at hy
  split at hy
  next b u hd =>
    have hk := takeDecision_keeps (.adaptive (.isMatch (contextOf s).s (contextOf s).ps)) hp
    rw [hd] at hk
    obtain ⟨m, rfl, hm⟩ := h.of_takeDecision hp.1 hd
    exact ⟨m, rfl, hm.of_runFetch hk hy⟩
  next => cases hy

/-! ### RUN ends (45_decode_loop.md R296) -/

theorem Inv.stepEffect {s : State} (h : Inv s) : Inv (stepEffect s) :=
  moves_keep (R := fun s t => Inv s → Inv t) (fun _ h => h) (fun _ _ _ h h' hs => h' (h hs))
    (fun _ _ hm h => h.of_move hm) (stepEffect_moves s) h

/-- A STEP in Running leaves Running or uses up a decision. -/
theorem DecisionsLeft.of_stepEffect {n : Nat} {s : State} (h : DecisionsLeft n s) (hinv : Inv s)
    (hs : s.status = .running) :
    (stepEffect s).status ≠ .running ∨ ∃ m, n = m + 1 ∧ DecisionsLeft m (stepEffect s) := by
  by_cases hsize : sizeReached s = true
  · rw [stepEffect_of_sizeReached hs hsize]
    exact .inl (by simp)
  rw [stepEffect_of_not_sizeReached hs hsize]
  rcases decodeSymbolStep_cases (respondOk s) with ⟨y, u, hy, -, he⟩ | ⟨k, u, -, -, he⟩ <;> rw [he]
  · obtain ⟨m, hm, hu⟩ := DecisionsLeft.of_fetchSymbol (s := respondOk s) h ⟨hinv.probs, hinv.cursor⟩ hy
    rcases symbolEffect_outcomes y u with ⟨k, he⟩ | ⟨-, he⟩ | ⟨-, ext, -, he⟩ <;> rw [he]
    · exact .inl (by simp)
    · exact .inl (by simp)
    · exact .inr ⟨m, hm, hu⟩
  · exact .inl (by simp)

/-- RUN's loop ends within one STEP more than the decisions left. -/
theorem DecisionsLeft.runLoop_isSome {n : Nat} {s : State} (h : DecisionsLeft n s) (hinv : Inv s) :
    ∃ t, runLoop (n + 1) s = some t := by
  induction n using Nat.strong_induction_on generalizing s with
  | h n ih =>
    by_cases hs : s.status = .running
    · rw [runLoop, if_pos hs]
      rcases h.of_stepEffect hinv hs with hend | ⟨m, rfl, hleft⟩
      · exact ⟨_, runLoop_of_not_running hend⟩
      · exact ih m (Nat.lt_succ_self m) hleft hinv.stepEffect
    · exact ⟨s, runLoop_of_not_running hs⟩

/-- STEPs from Running that leave Running end in Done or Failed (10_state.md R38). -/
theorem stepEffect_iterate_status {k : Nat} {s : State} (hs : s.status = .running)
    (ht : (stepEffect^[k] s).status ≠ .running) :
    (stepEffect^[k] s).status = .done ∨ (stepEffect^[k] s).status = .failed := by
  have order := Moves.order (stepEffect_iterate_moves k s)
  have hcode := order.code
  have hver := order.verified
  rw [hs] at hcode hver
  cases hk : (stepEffect^[k] s).status <;> simp_all [statusCode]

/-- Settles O16: the decisions left at the start are one less than R296's bound. -/
theorem runEndsWithinBound : Obligations.RunEndsWithinBound := by
  intro s hinv hs
  have hleft : DecisionsLeft (364 * (s.inp.length - s.cursor) + 363) (respondOk s) :=
    ⟨0, by omega, .zero _, Nat.le_refl _⟩
  obtain ⟨t, ht⟩ := hleft.runLoop_isSome (hinv.of_host s.calls (some .ok))
  have hrun : runLoop (runBound s) (respondOk s) = some t := ht
  obtain ⟨k, hk, rfl, hend, hall⟩ := runLoop_eq_some hrun
  exact ⟨k, _, hk, rfl, (execRun_after_init (by simp [hs]) (by simp [hs])).trans (runToEnd_eq_next.mpr hrun),
    stepEffect_iterate_status hs hend, hall⟩

end Sys2Proof.Machine

/-! ## The host commands (46_host_commands.md R320 to R330) -/

namespace Sys2Proof.Machine

/-- Settles O11: a command in the list by `step_of_call`, an empty list by computation. -/
theorem stepRunsNextCommand : Obligations.StepRunsNextCommand :=
  ⟨fun _ _ _ _ => step_of_call, fun _ h => by simp [step, nextCall, h]⟩

/-! ### PropsDecode (46_host_commands.md R321) -/

theorem propsDecode_lc_val (p : Byte) : (propsDecode p).1.val = p.toNat % 9 := Nat.mod_mod _ 9

theorem propsDecode_lp_val (p : Byte) : (propsDecode p).2.1.val = p.toNat / 9 % 5 := Nat.mod_mod _ 5

theorem propsDecode_pb_val (p : Byte) : (propsDecode p).2.2.val = p.toNat / 45 % 5 := rfl

/-- The formula puts back the mixed-radix digits that PropsDecode takes from legal properties. -/
theorem propsFormula_propsDecode {p : Byte} (hp : p.toNat < Config.propsLimit) :
    ((propsDecode p).2.2.val * 5 + (propsDecode p).2.1.val) * 9 + (propsDecode p).1.val = p.toNat := by
  rw [Config.propsLimit] at hp
  rw [propsDecode_lc_val, propsDecode_lp_val, propsDecode_pb_val]
  omega

/-- Each digit of the formula is below its radix, so PropsDecode finds it again. -/
theorem propsDecode_propsFormula (lc : Fin 9) (lp pb : Fin 5) :
    propsDecode (BitVec.ofNat 8 ((pb.val * 5 + lp.val) * 9 + lc.val)) = (lc, lp, pb) := by
  have hval : (BitVec.ofNat 8 ((pb.val * 5 + lp.val) * 9 + lc.val)).toNat = (pb.val * 5 + lp.val) * 9 + lc.val := by
    rw [BitVec.toNat_ofNat]
    omega
  refine Prod.ext (Fin.ext ?lc) (Prod.ext (Fin.ext ?lp) (Fin.ext ?pb))
  case lc =>
    rw [propsDecode_lc_val, hval]
    dsimp only
    omega
  case lp =>
    rw [propsDecode_lp_val, hval]
    dsimp only
    omega
  case pb =>
    rw [propsDecode_pb_val, hval]
    dsimp only
    omega

/-- Settles O23, one lemma for each direction. -/
theorem propsDecodeInverts : Obligations.PropsDecodeInverts :=
  ⟨propsDecode_propsFormula, fun _ hp => propsFormula_propsDecode (Nat.lt_succ_of_le hp)⟩

/-! ### CONFIGURE -/

theorem execConfigure_of_status_ne (p : Byte) (d : U32) (m : SizeMode) {s : State} (h : s.status ≠ .unconfigured) :
    execConfigure p d m s = .next (refuse s) :=
  if_pos h

theorem execConfigure_of_legal {p : Byte} (d : U32) (m : SizeMode) {s : State} (hs : s.status = .unconfigured)
    (hp : p.toNat < Config.propsLimit) : execConfigure p d m s = .next (respondOk (setParameters p d m s)) :=
  (if_neg (not_not.mpr hs)).trans (if_neg (Nat.not_le.mpr hp))

/-- Settles O21: the parameters by `propsFormula_propsDecode`, the slots because an empty store reads 1024, the other fields
as `setParameters` writes or keeps them. -/
theorem configureCompletes : Obligations.ConfigureCompletes := by
  intro p d m s hs hp
  refine ⟨respondOk (setParameters p d m s), execConfigure_of_legal d m hs hp, propsFormula_propsDecode hp, rfl,
    ?bounded, ?unbounded, getProb_nil, ?writtenAndKept⟩
  case bounded =>
    rintro n rfl
    exact ⟨rfl, rfl⟩
  case unbounded =>
    rintro rfl
    exact ⟨rfl, rfl⟩
  case writtenAndKept => and_intros <;> rfl

/-! ### FINALIZE -/

theorem execFinalize_of_status_ne {s : State} (h : s.status ≠ .done) : execFinalize s = .next (refuse s) :=
  if_pos h

/-- Settles O25, by the cases of FINALIZE. -/
theorem finalizeChecksResidual : Obligations.FinalizeChecksResidual := by
  refine ⟨fun s hs hcode => ?verified, fun s hs hcode => ?residual, fun s hs => execFinalize_of_status_ne hs⟩
  case verified =>
    rcases execFinalize_cases s with ⟨hne, -⟩ | ⟨-, hne, -⟩ | ⟨-, -, h⟩
    · exact absurd hs hne
    · exact absurd hcode hne
    · exact h
  case residual =>
    rcases execFinalize_cases s with ⟨hne, -⟩ | ⟨-, -, h⟩ | ⟨-, hzero, -⟩
    · exact absurd hs hne
    · exact h
    · exact absurd hzero hcode

/-! ### Commands outside their status (46_host_commands.md R326) -/

/-- Once the loop has ended a RUN has no effect (45_decode_loop.md R295). -/
theorem execRun_of_ended {s : State} (h : s.status = .done ∨ s.status = .verified ∨ s.status = .failed) :
    execRun s = .next (respondOk s) := by
  have hu : s.status ≠ .unconfigured := by rcases h with h | h | h <;> simp [h]
  have hc : s.status ≠ .configured := by rcases h with h | h | h <;> simp [h]
  have hr : (respondOk s).status ≠ .running := by rcases h with h | h | h <;> simp [h]
  rw [execRun_after_init hu hc, runToEnd_eq_next]
  exact runLoop_of_not_running hr

/-- Settles O20, one lemma for each command and group of statuses. -/
theorem commandAcceptance : Obligations.CommandAcceptance :=
  ⟨fun p d m _ => execConfigure_of_status_ne p d m, fun _ => execInit_of_status_ne, fun _ => execFinalize_of_status_ne,
    fun _ h => ⟨execStep_before_init h, execRun_before_init h⟩,
    fun _ h => ⟨congrArg Host.Outcome.next (stepEffect_of_ended h), execRun_of_ended h⟩⟩

end Sys2Proof.Machine

/-! ## Exceptions (60_exceptions.md R345, R346) -/

namespace Sys2Proof.Machine

/-- Settles O17: `raiseFail` writes these three fields and no other. -/
theorem raiseFailRecordsOnly : Obligations.RaiseFailRecordsOnly := fun _ _ => rfl

theorem decodeCall_of_code_eq_three {c : Call} (h : c.code = 3) : decodeCall c = .ok .step := by
  simp [decodeCall, h]

theorem decodeCall_of_code_eq_four {c : Call} (h : c.code = 4) : decodeCall c = .ok .run := by
  simp [decodeCall, h]

/-- A code that is neither STEP's nor RUN's (30_encoding.md R119). -/
theorem decodeCall_of_code_ne {c : Call} (hstep : c.code ≠ 3) (hrun : c.code ≠ 4) :
    decodeCall c = .ok (.configure c.props c.dictionarySize c.sizeMode) ∨ decodeCall c = .ok .init ∨
      decodeCall c = .ok .finalize ∨ decodeCall c = .error (.unassignedCode c.code) := by
  unfold decodeCall
  split
  case h_3 h => exact absurd (BitVec.eq_of_toNat_eq h) hstep
  case h_4 h => exact absurd (BitVec.eq_of_toNat_eq h) hrun
  all_goals simp

section
variable {s : State} {c : Call} {rest : List Call} (hs : s.status = .failed) (hc : s.calls = c :: rest)
include hs hc

/-- STEP and RUN have no effect in Failed (46_host_commands.md R326). -/
theorem step_of_failed_of_stepping (h : c.code = 3 ∨ c.code = 4) :
    step s = .next (respondOk { s with calls := rest }) := by
  have ended : ({ s with calls := rest } : State).status = .done ∨
      ({ s with calls := rest } : State).status = .verified ∨
      ({ s with calls := rest } : State).status = .failed := .inr (.inr hs)
  rcases h with h | h
  · rw [step_of_call hc (decodeCall_of_code_eq_three h)]
    exact congrArg Host.Outcome.next (stepEffect_of_ended ended)
  · rw [step_of_call hc (decodeCall_of_code_eq_four h)]
    exact execRun_of_ended ended

/-- Every other code is refused in Failed: a command because of the status, an unassigned code always
(46_host_commands.md R326). -/
theorem step_of_failed_of_not_stepping (hstep : c.code ≠ 3) (hrun : c.code ≠ 4) :
    step s = .next (refuse { s with calls := rest }) := by
  have status_ne {st : Status} (h : .failed ≠ st) : ({ s with calls := rest } : State).status ≠ st := hs ▸ h
  rcases decodeCall_of_code_ne hstep hrun with h | h | h | h
  · rw [step_of_call hc h]
    exact execConfigure_of_status_ne _ _ _ (status_ne (by decide))
  · rw [step_of_call hc h]
    exact execInit_of_status_ne (status_ne (by decide))
  · rw [step_of_call hc h]
    exact execFinalize_of_status_ne (status_ne (by decide))
  · exact step_of_unassigned hc h

/-- A command issued in Failed is taken from the list and answered, and that is all (60_exceptions.md R346). -/
theorem step_of_failed_eq :
    step s = .next { s with
      calls := rest, response := some (if c.code = 3 ∨ c.code = 4 then .ok else .refused) } := by
  by_cases h : c.code = 3 ∨ c.code = 4
  · rw [if_pos h]
    exact step_of_failed_of_stepping hs hc h
  · rw [if_neg h]
    obtain ⟨hstep, hrun⟩ := not_or.mp h
    exact step_of_failed_of_not_stepping hs hc hstep hrun

end

/-- Settles O18: with no command the step does nothing, and a command is answered as `step_of_failed_eq` says. -/
theorem failedIsForEver : Obligations.FailedIsForEver := by
  intro s hs
  cases hc : s.calls with
  | nil => exact ⟨s, stepRunsNextCommand.2 s hc, rfl, by simp⟩
  | cons c rest =>
    refine ⟨_, step_of_failed_eq hs hc, rfl, ?_⟩
    rintro _ _ ⟨⟩
    rfl

end Sys2Proof.Machine

/-! ## The invariant at reset (10_state.md R63) -/

namespace Sys2Proof.Machine

/-- Settles O2: a fresh session has stored, read and produced nothing, and stands before INIT, where the fields about
`range` and Verified ask for nothing. -/
theorem resetMeetsInvariant : Obligations.ResetMeetsInvariant where
  probs := ⟨rfl, by simp [State.reset]⟩
  range := by simp [RangeInv, afterInit, State.reset]
  cursor := le_rfl
  reps := ⟨.inl rfl, .inl rfl, .inl rfl, .inl rfl⟩
  matched := by simp [MatchedInv, State.reset]
  err := by simp [ErrInv, State.reset]
  done := by simp [DoneInv, State.reset]
  start := fun _ => ⟨rfl, rfl, rfl, rfl⟩
  verified := by simp [VerifiedInv, State.reset]

end Sys2Proof.Machine

/-! ## Decoding gives an encoded instruction back (30_encoding.md R101 to R119) -/

namespace Sys2Proof

/-- A symbol is encoded as an instruction by its decisions. -/
theorem encode_toInstr (y : Symbol) : encode y.toInstr = .decisions (encodeSymbol y) := by
  cases y <;> rfl

/-- In the plain context no check fails (30_encoding.md R116). -/
theorem contextCheck_plain (y : Symbol) : Machine.contextCheck Context.plain y = none := by
  cases y <;> rfl

/-- A well-formed symbol is decoded from its own decisions, with those after it left over (30_encoding.md R101). -/
theorem decodeSymbol_encodeSymbol {y : Symbol} (rest : List Bool) (hy : y.wf = true) :
    decodeSymbol (encodeSymbol y ++ rest) = .ok (y, rest) := by
  rw [decodeSymbol, symbolFetch_read_encodeSymbol _ rest hy, contextCheck_plain]
  rfl

theorem decode_encode_toInstr {y : Symbol} (hy : y.wf = true) : decode (encode y.toInstr) = .ok y.toInstr := by
  have hread := decodeSymbol_encodeSymbol [] hy
  rw [List.append_nil] at hread
  rw [encode_toInstr, decode, hread]
  rfl

/-- Settles O4: an instruction is a symbol, or a command whose code selects it. -/
theorem decodeEncode : Obligations.DecodeEncode := by
  intro i hi
  cases i with
  | lit b => exact decode_encode_toInstr (y := .lit b) hi
  | newMatch len dist => exact decode_encode_toInstr (y := .newMatch len dist) hi
  | eos len => exact decode_encode_toInstr (y := .eos len) hi
  | shortRep => exact decode_encode_toInstr (y := .shortRep) hi
  | longRep0 len => exact decode_encode_toInstr (y := .longRep0 len) hi
  | longRep1 len => exact decode_encode_toInstr (y := .longRep1 len) hi
  | longRep2 len => exact decode_encode_toInstr (y := .longRep2 len) hi
  | longRep3 len => exact decode_encode_toInstr (y := .longRep3 len) hi
  | configure | init | step | run | finalize => rfl

/-- Any 48 or more decisions begin with the encoding of a symbol (30_encoding.md R103, R115). -/
theorem exists_eq_encodeSymbol_append {bits : List Bool} (hlen : 48 ≤ bits.length) :
    ∃ y rest, y.wf = true ∧ bits = encodeSymbol y ++ rest := by
  obtain ⟨y, rest, hread⟩ := everyDecisionSequenceDecodes bits hlen
  exact ⟨y, rest, encodingIsUnique bits rest y hread⟩

end Sys2Proof

/-! ## No slot twice in a symbol (70_reset_and_hazards.md R386) -/

namespace Sys2Proof.Machine

/-- More outcomes only add to the slots asked for. -/
theorem fetchSlots_prefix_append {α : Type} (p : Fetch α) (bits more : List Bool) :
    fetchSlots p bits <+: fetchSlots p (bits ++ more) := by
  induction p generalizing bits with
  | done a => simp
  | fail k => simp
  | ask d next ih =>
    cases bits with
    | nil => cases d <;> exact List.nil_prefix
    | cons b bits =>
      cases d with
      | adaptive slot => exact (List.prefix_cons_inj slot).mpr (ih b bits)
      | direct => exact ih b bits

/-- Settles O50: continued by 48 more, the outcomes begin with the encoding of a well-formed symbol, in any context; the
slots asked for are then a beginning of its table, where no slot stands twice. -/
theorem noSlotTwiceInASymbol : Obligations.NoSlotTwiceInASymbol := by
  intro c bits
  obtain ⟨y, rest, hy, hbits⟩ : ∃ y rest, y.wf = true ∧ bits ++ List.replicate 48 false = encodeSymbol y ++ rest :=
    exists_eq_encodeSymbol_append (by simp)
  obtain ⟨htable, -⟩ := slotDecisions_symbolFetch c rest hy
  have hprefix : fetchSlots (symbolFetch c) bits <+: (symbolSlots c y).map Prod.fst :=
    calc fetchSlots (symbolFetch c) bits
      _ <+: fetchSlots (symbolFetch c) (bits ++ List.replicate 48 false) := fetchSlots_prefix_append _ _ _
      _ = (slotDecisions (symbolFetch c) (encodeSymbol y ++ rest)).map Prod.fst := by
        rw [hbits, slotDecisions_map_fst]
      _ <+: (symbolSlots c y).map Prod.fst := htable.map _
  exact (symbolSlots_nodup c hy).sublist hprefix.sublist

end Sys2Proof.Machine
